-- ==== Sys2Proof/Word.lean ====
section
/-! DEFINITION. The word types of the machine (spec/00_scope.md R9, R10): every value is an unsigned bit vector. -/

namespace Sys2Proof

/-- A four-bit field: a register index, a key number or a sprite height (R55). -/
abbrev Nibble := BitVec 4

/-- `u8` of R9: a register, a timer or one byte of memory. -/
abbrev Byte := BitVec 8

/-- The 12-bit address field `nnn` of R55. -/
abbrev Addr := BitVec 12

/-- `u16` of R9: an instruction word, PC, I or a stack entry. -/
abbrev Word := BitVec 16

end Sys2Proof
end

