-- ==== Sys2Proof/Syntax.lean ====
section
/-! DEFINITION. The instructions: one constructor per row of spec/opcode_table.json, in the table's order, each with
the operand fields of its format (spec/30_encoding.md R57, R58). -/

namespace Sys2Proof

/-- The 34 instructions of the §4.1 table. `x` and `y` are register indices, `kk` a byte, `nnn` an address and `n` a
sprite height; every value of a field's type is a legal operand (R58). -/
inductive Instr where
  /-- 00E0 CLS (R105). -/
  | cls
  /-- 00EE RET (R77). -/
  | ret
  /-- 1nnn JP nnn (R78). -/
  | jp (nnn : Addr)
  /-- 2nnn CALL nnn (R79). -/
  | call (nnn : Addr)
  /-- 3xkk SE Vx, kk (R80). -/
  | seImm (x : Nibble) (kk : Byte)
  /-- 4xkk SNE Vx, kk (R81). -/
  | sneImm (x : Nibble) (kk : Byte)
  /-- 5xy0 SE Vx, Vy (R82). -/
  | seReg (x y : Nibble)
  /-- 6xkk LD Vx, kk (R85). -/
  | ldImm (x : Nibble) (kk : Byte)
  /-- 7xkk ADD Vx, kk (R86). -/
  | addImm (x : Nibble) (kk : Byte)
  /-- 8xy0 LD Vx, Vy (R87). -/
  | ldReg (x y : Nibble)
  /-- 8xy1 OR Vx, Vy (R89). -/
  | orReg (x y : Nibble)
  /-- 8xy2 AND Vx, Vy (R90). -/
  | andReg (x y : Nibble)
  /-- 8xy3 XOR Vx, Vy (R91). -/
  | xorReg (x y : Nibble)
  /-- 8xy4 ADD Vx, Vy (R92). -/
  | addReg (x y : Nibble)
  /-- 8xy5 SUB Vx, Vy (R93). -/
  | sub (x y : Nibble)
  /-- 8xy6 SHR Vx, Vy (R95). -/
  | shr (x y : Nibble)
  /-- 8xy7 SUBN Vx, Vy (R96). -/
  | subn (x y : Nibble)
  /-- 8xyE SHL Vx, Vy (R97). -/
  | shl (x y : Nibble)
  /-- 9xy0 SNE Vx, Vy (R83). -/
  | sneReg (x y : Nibble)
  /-- Annn LD I, nnn (R99). -/
  | ldI (nnn : Addr)
  /-- Bnnn JP V0, nnn (R84). -/
  | jpV0 (nnn : Addr)
  /-- Cxkk RND Vx, kk (R98). -/
  | rnd (x : Nibble) (kk : Byte)
  /-- Dxyn DRW Vx, Vy, n (R106). -/
  | drw (x y n : Nibble)
  /-- Ex9E SKP Vx (R107). -/
  | skp (x : Nibble)
  /-- ExA1 SKNP Vx (R108). -/
  | sknp (x : Nibble)
  /-- Fx07 LD Vx, DT (R109). -/
  | ldVDt (x : Nibble)
  /-- Fx0A LD Vx, K (R110). -/
  | ldVK (x : Nibble)
  /-- Fx15 LD DT, Vx (R111). -/
  | ldDtV (x : Nibble)
  /-- Fx18 LD ST, Vx (R112). -/
  | ldStV (x : Nibble)
  /-- Fx1E ADD I, Vx (R100). -/
  | addI (x : Nibble)
  /-- Fx29 LD F, Vx (R101). -/
  | ldF (x : Nibble)
  /-- Fx33 LD B, Vx (R102). -/
  | ldB (x : Nibble)
  /-- Fx55 LD [I], Vx (R103). -/
  | ldMemV (x : Nibble)
  /-- Fx65 LD Vx, [I] (R104). -/
  | ldVMem (x : Nibble)
deriving DecidableEq, Repr

end Sys2Proof
end

