-- ==== Sys2Proof/Config.lean ====
section
/-! DEFINITION. What a step takes as an argument or a platform fixes (spec/00_scope.md R6, R8), the values this model
names for them, and the free values a step draws from outside the core (R12). -/

namespace Sys2Proof

/-- The Quirk Configuration `Q` of R6: four toggles a step reads and never writes. -/
structure Quirks where
  /-- `Q.shift_vx`: 8xy6 and 8xyE shift Vx when true, Vy when false (R94). -/
  shiftVx : Bool
  /-- `Q.ls_keep_i`: Fx55 and Fx65 leave I alone when true, add x + 1 when false (R103, R104). -/
  lsKeepI : Bool
  /-- `Q.wrap`: passed through to the host's draw, never read by the core (R6, R120). -/
  wrap : Bool
  /-- `Q.logic_vf_reset`: 8xy1, 8xy2 and 8xy3 clear VF when true (R89 to R91). -/
  logicVfReset : Bool
deriving DecidableEq, Repr

/-- The parameter `LOW_WRITE` of R8 and R47: are data writes below 0x200 allowed? -/
inductive LowWrite where
  | allow
  | fault
deriving DecidableEq, Repr

/-- The platform parameters the core's own rules read (R8). -/
structure Platform where
  /-- `PC_MIN`, the lowest address a fetch may start at (R69). -/
  pcMin : Word
  /-- `LOW_WRITE` (R40, R47). -/
  lowWrite : LowWrite
deriving DecidableEq, Repr

/-- `FONT`: 16 glyphs of 5 bytes (R8, R35). -/
abbrev Font := Vector Byte 80

namespace Config

/-- The spec's values of the platform parameters: PC_MIN = 0x200, LOW_WRITE = allow (R8, D5, D14; log entry 4). -/
def platform : Platform := { pcMin := 0x200, lowWrite := .allow }

/-- DESIGN CHOICE, unsafe for a claim about runs from reset: the source gives the toggles no default (R6, D11); this is
the convention of spec/95_test_vectors.md (log entry 3). -/
def quirks : Quirks := { shiftVx := false, lsKeepI := false, wrap := false, logicVfReset := true }

/-- PRESUMED, unsafe for a claim about the glyph bytes at reset: the conventional CHIP-8 table that R35 offers where the
source gives none (D29, G1; log entry 5). `construct` and `loadTypography` take any font. -/
def font : Font :=
  (#v[0xF0, 0x90, 0x90, 0x90, 0xF0,  0x20, 0x60, 0x20, 0x20, 0x70,
      0xF0, 0x10, 0xF0, 0x80, 0xF0,  0xF0, 0x10, 0xF0, 0x10, 0xF0,
      0x90, 0x90, 0xF0, 0x10, 0x10,  0xF0, 0x80, 0xF0, 0x10, 0xF0,
      0xF0, 0x80, 0xF0, 0x90, 0xF0,  0xF0, 0x10, 0x20, 0x40, 0x40] : Vector Byte 40) ++
  (#v[0xF0, 0x90, 0xF0, 0x90, 0xF0,  0xF0, 0x90, 0xF0, 0x10, 0xF0,
      0xF0, 0x90, 0xF0, 0x90, 0x90,  0xE0, 0x90, 0xE0, 0x90, 0xE0,
      0xF0, 0x80, 0x80, 0x80, 0xF0,  0xE0, 0x90, 0x90, 0x90, 0xE0,
      0xF0, 0x80, 0xF0, 0x80, 0xF0,  0xF0, 0x80, 0xF0, 0x80, 0x80] : Vector Byte 40)

/-- FREE VALUE: the byte the host answers at draw number `k` (R12, R121, D20; log entry 6). It has no body, so nothing
can be proved of a value of it. Safe. -/
opaque randomByte : Nat → Byte

/-- FREE VALUE: the collision answer of the host at draw number `k`, where R120 does not force it to 0 (R12, D21; log
entry 7). Safe. -/
opaque collision : Nat → Bool

end Config

end Sys2Proof
end

