-- ==== Sys2Proof/WellFormed.lean ====
section
/-! DEFINITION. The checks on what comes from outside. An `Instr` needs none: each operand field's type holds exactly
the values the encoding admits (spec/30_encoding.md R58), so every term of `Instr` is well formed. What can be ill
formed is an instruction WORD (R65), a program image (R139), a key number read from a register (R107) and a breakpoint
address (R134): one check for each. -/

namespace Sys2Proof

/-- One row of spec/opcode_table.json: the words `w` with `(w AND mask) = pattern` are this row's (R56). -/
structure OpcodeRow where
  mnemonic : String
  pattern : Word
  mask : Word
deriving DecidableEq, Repr

/-- The word `w` belongs to the row (R56). -/
def OpcodeRow.matches (r : OpcodeRow) (w : Word) : Bool := w &&& r.mask == r.pattern

/-- The rows of families 0 to 7. -/
def opcodeRowsLow : List OpcodeRow :=
  [⟨"CLS", 0x00E0, 0xFFFF⟩, ⟨"RET", 0x00EE, 0xFFFF⟩, ⟨"JP", 0x1000, 0xF000⟩, ⟨"CALL", 0x2000, 0xF000⟩,
   ⟨"SE_imm", 0x3000, 0xF000⟩, ⟨"SNE_imm", 0x4000, 0xF000⟩, ⟨"SE_reg", 0x5000, 0xF00F⟩,
   ⟨"LD_imm", 0x6000, 0xF000⟩, ⟨"ADD_imm", 0x7000, 0xF000⟩]

/-- The rows of families 8 and 9. -/
def opcodeRowsAlu : List OpcodeRow :=
  [⟨"LD_reg", 0x8000, 0xF00F⟩, ⟨"OR", 0x8001, 0xF00F⟩, ⟨"AND", 0x8002, 0xF00F⟩, ⟨"XOR", 0x8003, 0xF00F⟩,
   ⟨"ADD_reg", 0x8004, 0xF00F⟩, ⟨"SUB", 0x8005, 0xF00F⟩, ⟨"SHR", 0x8006, 0xF00F⟩, ⟨"SUBN", 0x8007, 0xF00F⟩,
   ⟨"SHL", 0x800E, 0xF00F⟩, ⟨"SNE_reg", 0x9000, 0xF00F⟩]

/-- The rows of families A to F. -/
def opcodeRowsHigh : List OpcodeRow :=
  [⟨"LD_I", 0xA000, 0xF000⟩, ⟨"JP_V0", 0xB000, 0xF000⟩, ⟨"RND", 0xC000, 0xF000⟩, ⟨"DRW", 0xD000, 0xF000⟩,
   ⟨"SKP", 0xE09E, 0xF0FF⟩, ⟨"SKNP", 0xE0A1, 0xF0FF⟩, ⟨"LD_V_DT", 0xF007, 0xF0FF⟩, ⟨"LD_V_K", 0xF00A, 0xF0FF⟩,
   ⟨"LD_DT_V", 0xF015, 0xF0FF⟩, ⟨"LD_ST_V", 0xF018, 0xF0FF⟩, ⟨"ADD_I", 0xF01E, 0xF0FF⟩, ⟨"LD_F", 0xF029, 0xF0FF⟩,
   ⟨"LD_B", 0xF033, 0xF0FF⟩, ⟨"LD_MEM_V", 0xF055, 0xF0FF⟩, ⟨"LD_V_MEM", 0xF065, 0xF0FF⟩]

/-- spec/opcode_table.json, its `match` and `mask` columns, in the table's order (R56, R59). The decoder does not read
it: `decode` is written from R59 to R64, and the two are proved to agree. -/
def opcodeTable : List OpcodeRow := opcodeRowsLow ++ opcodeRowsAlu ++ opcodeRowsHigh

/-- The word is some instruction's (R65). -/
def recognized (w : Word) : Bool := opcodeTable.any (·.matches w)

/-- The program fits between 0x200 and 0xFFF (R139). -/
def romFits (bytes : List Byte) : Bool := 0x200 + bytes.length ≤ 4096

/-- The register value names one of the 16 keys (R107, R114). -/
def isKey (k : Byte) : Bool := k ≤ 15

/-- The address may carry a breakpoint: even, from 0x200 to 0xFFE (R134). -/
def breakpointOk (a : Word) : Bool := a.toNat % 2 == 0 && 0x200 ≤ a.toNat && a.toNat ≤ 0xFFE

end Sys2Proof
end

