-- ==== Sys2Proof/Decode.lean ====
section
/-! DEFINITION. The decoder, total on every word, and the encoder (spec/30_encoding.md R54 to R65,
spec/40_step_cycle.md R70). -/

namespace Sys2Proof

/-! ## Fields (R55) -/

/-- w[15:12]. -/
def fieldFamily (w : Word) : Nibble := w.extractLsb' 12 4

/-- w[11:8]. -/
def fieldX (w : Word) : Nibble := w.extractLsb' 8 4

/-- w[7:4]. -/
def fieldY (w : Word) : Nibble := w.extractLsb' 4 4

/-- w[3:0]. -/
def fieldN (w : Word) : Nibble := w.extractLsb' 0 4

/-- w[7:0]. -/
def fieldKk (w : Word) : Byte := w.extractLsb' 0 8

/-- w[11:0]. -/
def fieldNnn (w : Word) : Addr := w.extractLsb' 0 12

/-- The big-endian word of two consecutive bytes: the one at the lower address is w[15:8] (R42, R69). -/
def wordOfBytes (hi lo : Byte) : Word := hi ++ lo

/-- w[15:8], the byte at the lower address (R42). -/
def highByte (w : Word) : Byte := w.extractLsb' 8 8

/-- w[7:0], the byte at the higher address (R42). -/
def lowByte (w : Word) : Byte := w.extractLsb' 0 8

/-! ## Decoding -/

/-- Why the decoder refuses. Every word refusal makes the step Invalid (R65, R71), which is not a fault. -/
inductive Reject where
  /-- A word 0nnn other than 00E0 and 00EE (R60). -/
  | family0 (w : Word)
  /-- 5xyn or 9xyn with n not 0 (R61). -/
  | compareLowNibble (w : Word)
  /-- 8xyn with n in 8, 9, A, B, C, D, F (R62). -/
  | aluSubcode (w : Word)
  /-- Exkk with kk neither 9E nor A1 (R63). -/
  | keySubcode (w : Word)
  /-- Fxkk with kk not one of R64's nine. -/
  | miscSubcode (w : Word)
  /-- Fewer than two bytes: no instruction is that short (R54). -/
  | truncated
deriving DecidableEq, Repr

/-- Family 8 by its subcode n (R62). -/
def decodeAlu (w : Word) : Except Reject Instr :=
  let x := fieldX w
  let y := fieldY w
  let n := fieldN w
  if n = 0x0 then .ok (.ldReg x y)
  else if n = 0x1 then .ok (.orReg x y)
  else if n = 0x2 then .ok (.andReg x y)
  else if n = 0x3 then .ok (.xorReg x y)
  else if n = 0x4 then .ok (.addReg x y)
  else if n = 0x5 then .ok (.sub x y)
  else if n = 0x6 then .ok (.shr x y)
  else if n = 0x7 then .ok (.subn x y)
  else if n = 0xE then .ok (.shl x y)
  else .error (.aluSubcode w)

/-- Family F by its subcode kk (R64). -/
def decodeMisc (w : Word) : Except Reject Instr :=
  let x := fieldX w
  let kk := fieldKk w
  if kk = 0x07 then .ok (.ldVDt x)
  else if kk = 0x0A then .ok (.ldVK x)
  else if kk = 0x15 then .ok (.ldDtV x)
  else if kk = 0x18 then .ok (.ldStV x)
  else if kk = 0x1E then .ok (.addI x)
  else if kk = 0x29 then .ok (.ldF x)
  else if kk = 0x33 then .ok (.ldB x)
  else if kk = 0x55 then .ok (.ldMemV x)
  else if kk = 0x65 then .ok (.ldVMem x)
  else .error (.miscSubcode w)

/-- The instruction of a word, by family and subcode (R59, R70). -/
def decode (w : Word) : Except Reject Instr :=
  let f := fieldFamily w
  let x := fieldX w
  let y := fieldY w
  let kk := fieldKk w
  let nnn := fieldNnn w
  if f = 0x0 then
    if w = 0x00E0 then .ok .cls else if w = 0x00EE then .ok .ret else .error (.family0 w)
  else if f = 0x1 then .ok (.jp nnn)
  else if f = 0x2 then .ok (.call nnn)
  else if f = 0x3 then .ok (.seImm x kk)
  else if f = 0x4 then .ok (.sneImm x kk)
  else if f = 0x5 then if fieldN w = 0 then .ok (.seReg x y) else .error (.compareLowNibble w)
  else if f = 0x6 then .ok (.ldImm x kk)
  else if f = 0x7 then .ok (.addImm x kk)
  else if f = 0x8 then decodeAlu w
  else if f = 0x9 then if fieldN w = 0 then .ok (.sneReg x y) else .error (.compareLowNibble w)
  else if f = 0xA then .ok (.ldI nnn)
  else if f = 0xB then .ok (.jpV0 nnn)
  else if f = 0xC then .ok (.rnd x kk)
  else if f = 0xD then .ok (.drw x y (fieldN w))
  else if f = 0xE then
    if kk = 0x9E then .ok (.skp x) else if kk = 0xA1 then .ok (.sknp x) else .error (.keySubcode w)
  else decodeMisc w

/-- The instruction at the head of a string of bytes, and the bytes after it (R42, R54). -/
def decodeBytes (bytes : List Byte) : Except Reject (Instr × List Byte) :=
  match bytes with
  | hi :: lo :: rest =>
    match decode (wordOfBytes hi lo) with
    | .ok i => .ok (i, rest)
    | .error e => .error e
  | _ => .error .truncated

/-! ## Encoding -/

/-- The word of format NNN (R57). -/
def encodeNnn (f : Nibble) (nnn : Addr) : Word := f ++ nnn

/-- The word of format XKK, and of format X with kk its subcode (R57). -/
def encodeXkk (f x : Nibble) (kk : Byte) : Word := f ++ x ++ kk

/-- The word of format XYN, and of format XY with n its subcode (R57). -/
def encodeXyn (f x y n : Nibble) : Word := f ++ x ++ y ++ n

/-- The word of an instruction, from the pattern column of the opcode table (R56, R57). -/
def encode (i : Instr) : Word :=
  match i with
  | .cls => 0x00E0
  | .ret => 0x00EE
  | .jp nnn => encodeNnn 0x1 nnn
  | .call nnn => encodeNnn 0x2 nnn
  | .seImm x kk => encodeXkk 0x3 x kk
  | .sneImm x kk => encodeXkk 0x4 x kk
  | .seReg x y => encodeXyn 0x5 x y 0x0
  | .ldImm x kk => encodeXkk 0x6 x kk
  | .addImm x kk => encodeXkk 0x7 x kk
  | .ldReg x y => encodeXyn 0x8 x y 0x0
  | .orReg x y => encodeXyn 0x8 x y 0x1
  | .andReg x y => encodeXyn 0x8 x y 0x2
  | .xorReg x y => encodeXyn 0x8 x y 0x3
  | .addReg x y => encodeXyn 0x8 x y 0x4
  | .sub x y => encodeXyn 0x8 x y 0x5
  | .shr x y => encodeXyn 0x8 x y 0x6
  | .subn x y => encodeXyn 0x8 x y 0x7
  | .shl x y => encodeXyn 0x8 x y 0xE
  | .sneReg x y => encodeXyn 0x9 x y 0x0
  | .ldI nnn => encodeNnn 0xA nnn
  | .jpV0 nnn => encodeNnn 0xB nnn
  | .rnd x kk => encodeXkk 0xC x kk
  | .drw x y n => encodeXyn 0xD x y n
  | .skp x => encodeXkk 0xE x 0x9E
  | .sknp x => encodeXkk 0xE x 0xA1
  | .ldVDt x => encodeXkk 0xF x 0x07
  | .ldVK x => encodeXkk 0xF x 0x0A
  | .ldDtV x => encodeXkk 0xF x 0x15
  | .ldStV x => encodeXkk 0xF x 0x18
  | .addI x => encodeXkk 0xF x 0x1E
  | .ldF x => encodeXkk 0xF x 0x29
  | .ldB x => encodeXkk 0xF x 0x33
  | .ldMemV x => encodeXkk 0xF x 0x55
  | .ldVMem x => encodeXkk 0xF x 0x65

/-- The two bytes of an instruction as a program stores them, high byte first (R42). -/
def encodeBytes (i : Instr) : List Byte := [highByte (encode i), lowByte (encode i)]

/-! ## The host's question about one table row -/

/-- The word whose bits, numbered as the table numbers them, are `w`'s low `nbits` bits, and 0 above. -/
def tableWord (nbits w : Nat) : Word := BitVec.ofNat 16 (w % 2 ^ nbits)

/-- What the decoder reads from the bytes of that word as the hardware stores them. -/
def decodeTableWord (nbits w : Nat) : Option Instr :=
  match decodeBytes [highByte (tableWord nbits w), lowByte (tableWord nbits w)] with
  | .ok (i, _) => some i
  | .error _ => none

end Sys2Proof
end

