-- ==== Sys2Proof/Machine/State.lean ====
section
/-! DEFINITION. The machine's state as plain data (spec/10_state.md R14), the ways it can stop, and the state after
reset (R36). -/

namespace Sys2Proof.Machine

/-- Memory: the cells that differ from the reset contents, addresses strictly rising (R38; log entry 18). -/
abbrev Memory := List Host.Cell

/-- The causes of R114, in the order of their codes. -/
inductive FaultCause where
  /-- 2nnn with SP = 16. -/
  | stackOverflow
  /-- 00EE with SP = 0. -/
  | stackUnderflow
  /-- A fetch outside PC_MIN to 0xFFF. -/
  | pcOutOfRange
  /-- A data access above 0xFFF. -/
  | memOutOfRange
  /-- Ex9E or ExA1 with V[x] above 15. -/
  | keyOutOfRange
  /-- A data write below 0x200 under LOW_WRITE = fault. -/
  | lowWriteProtected
deriving DecidableEq, Repr

/-- The fault record of R113: the cause, the info R114 lists for it, and the PC of the faulting instruction. -/
structure FaultRecord where
  cause : FaultCause
  /-- An address (up to 17 bits) or a register's value (R114). -/
  info : Nat
  pc : Word
deriving DecidableEq, Repr

/-- The outcome of a step (R67). -/
inductive StepOutcome where
  | advanced
  | awaitingInput
  | invalid
  | fault (cause : FaultCause) (info : Nat)
deriving DecidableEq, Repr

/-- A request a step makes of the host (R118 to R120). The random byte's request is the advance of `draws` (R121; log
entry 20). -/
inductive Request where
  /-- `clear_screen()` (R119). -/
  | clearScreen
  /-- `draw_sprite(bytes, x, y, n)` with the wrap toggle passed through (R120). -/
  | drawSprite (bytes : List Byte) (x y : Byte) (n : Nibble) (wrap : Bool)
deriving DecidableEq, Repr

/-- Everything the core holds (R14), the arguments the next step takes (R68), the results of the last one (R68), and
the model's own draw counter. -/
structure State where
  /-- Memory, R38. -/
  mem : Memory
  /-- V0 to VF, R15; VF is index 15, R16. -/
  v : Vector Byte 16
  /-- The index register, R21. -/
  i : Word
  /-- The program counter: the address of the instruction to execute, R18. -/
  pc : Word
  /-- The number of stack entries in use, R23. -/
  sp : Byte
  /-- The return stack, R24. -/
  stack : Vector Word 16
  /-- The delay timer, R25. -/
  dt : Byte
  /-- The sound timer, R26. -/
  st : Byte
  /-- Which keys are down, R29; only the host writes it. -/
  keyStates : Vector Bool 16
  /-- The last key recorded, none the NoKey sentinel, R30; only the host writes it. -/
  lastKey : Option Nibble
  /-- The fault record, R32; once set it stays. -/
  fault : Option FaultRecord
  /-- The Quirk Configuration the next step is given, R6, R37 (log entry 2); no step writes it. -/
  quirks : Quirks
  /-- The platform parameters, R8 (log entry 4); nothing writes them. -/
  platform : Platform
  /-- The outcome of the last step, R67 (log entry 1); no step reads it. -/
  outcome : Option StepOutcome
  /-- The requests the last step made, R68 (log entry 1); no step reads them. -/
  requests : List Request
  /-- The model's own: how many draws the core has taken, R12 (log entry 6). -/
  draws : Nat
deriving DecidableEq, Repr

/-- Why the machine stops. -/
inductive Fault where
  /-- Raised by `step` on a state whose fault record is set: such a state has no step (R68, R113). Safe: the hardware's
  reference does not go on either. -/
  | stopped (record : FaultRecord)
  /-- Raised by 00EE and 2nnn on an SP of 17 to 255, for which the stack has no entry: no run reaches such a state
  (R33, D35; log entry 9). Safe: the model stops. -/
  | stackPointerInvalid (sp : Byte)
deriving DecidableEq, Repr

/-- What is refused. -/
inductive Refusal where
  /-- Raised by an arm of `exec` whose instruction has no meaning yet; no arm is left. Safe. -/
  | notModelled (mnemonic : String)
  /-- Raised by the transaction `loadROM` on a program that does not fit (R139, D30; log entry 14). Safe. -/
  | romTooLong (length : Nat)
  /-- Raised by the transaction `setLastKey` while a key is recorded: the host may not issue it (R126, R127; log entry
  14). Safe. -/
  | lastKeyHeld (key : Nibble)
deriving DecidableEq, Repr

/-- The state after `construct` with the model's font (R36, R137): memory lists nothing, because an unlisted address
reads as its reset contents. -/
def State.reset : State where
  mem := []
  v := Vector.replicate 16 0
  i := 0
  pc := 0x200
  sp := 0
  stack := Vector.replicate 16 0
  dt := 0
  st := 0
  keyStates := Vector.replicate 16 false
  lastKey := none
  fault := none
  quirks := Config.quirks
  platform := Config.platform
  outcome := none
  requests := []
  draws := 0

end Sys2Proof.Machine
end

