-- ==== Sys2Proof/Machine/Ops.lean ====
section
/-! DEFINITION. The named operations over memory, registers, the stack and the program counter, the fetch, and the one
way a fault is taken (spec/20_memory.md R40, spec/40_step_cycle.md R69 to R73, spec/60_exceptions.md R113). -/

namespace Sys2Proof.Machine

/-! ## Memory -/

/-- The number of bytes of memory (R38). -/
def memSize : Nat := 4096

/-- What an address that memory does not list reads as: the reset contents, FONT at 0x000 to 0x04F and 0 above (R36,
R46; the font's values are log entry 5). -/
def Memory.initial (a : Nat) : Byte := if h : a < 80 then Config.font[a] else 0

/-- The byte at an address (R40). -/
def Memory.read : Memory → Nat → Byte
  | [], a => Memory.initial a
  | c :: m, a => if c.1 = a then c.2 else Memory.read m a

/-- Memory with no cell at an address. -/
def Memory.erase (m : Memory) (a : Nat) : Memory := m.filter fun c => c.1 != a

/-- A cell put in its place by address. -/
def Memory.insert : Memory → Nat → Byte → Memory
  | [], a, b => [(a, b)]
  | c :: m, a, b => if a < c.1 then (a, b) :: c :: m else c :: Memory.insert m a b

/-- Write one byte, keeping the canonical form. An address that does not exist is left alone; no instruction reaches
one, since its check comes first (R40; log entry 18). -/
def Memory.write (m : Memory) (a : Nat) (b : Byte) : Memory :=
  if a < memSize then
    if b = Memory.initial a then Memory.erase m a else Memory.insert (Memory.erase m a) a b
  else m

/-- The cells lie at rising addresses from `lo` up, inside memory, none holding its reset value. -/
def Memory.wfFrom : Nat → Memory → Bool
  | _, [] => true
  | lo, c :: m => lo ≤ c.1 && c.1 < memSize && c.2 != Memory.initial c.1 && Memory.wfFrom (c.1 + 1) m

/-- The canonical form: equal memories are equal lists. -/
def Memory.wf (m : Memory) : Bool := Memory.wfFrom 0 m

/-- `n` bytes at consecutive addresses, as single-byte reads (R43). -/
def Memory.readBytes (m : Memory) : Nat → Nat → List Byte
  | _, 0 => []
  | a, n + 1 => Memory.read m a :: Memory.readBytes m (a + 1) n

/-- Bytes stored at consecutive addresses, in order, as single-byte writes (R43). -/
def Memory.writeBytes : Memory → Nat → List Byte → Memory
  | m, _, [] => m
  | m, a, b :: bs => Memory.writeBytes (Memory.write m a b) (a + 1) bs

/-- The byte of a state's memory. -/
def State.readByte (s : State) (a : Nat) : Byte := Memory.read s.mem a

/-- Replace memory. -/
def State.setMem (s : State) (m : Memory) : State := { s with mem := m }

/-! ## Registers -/

/-- `V[x]` (R11, R15). -/
def State.getV (s : State) (x : Nibble) : Byte := s.v[x.toNat]'x.isLt

/-- `V[x] <- b` (R11, R15). -/
def State.setV (s : State) (x : Nibble) (b : Byte) : State := { s with v := s.v.set x.toNat b x.isLt }

/-- The index of VF (R15, R16). -/
def vf : Nibble := 0xF

/-- Replace all sixteen registers. -/
def State.setAllV (s : State) (v : Vector Byte 16) : State := { s with v := v }

/-- `I <- w` (R21, R22). -/
def State.setI (s : State) (w : Word) : State := { s with i := w }

/-- `PC <- w`, unchecked (R20). -/
def State.setPc (s : State) (w : Word) : State := { s with pc := w }

/-- `DT <- b` (R25). -/
def State.setDt (s : State) (b : Byte) : State := { s with dt := b }

/-- `ST <- b` (R26). -/
def State.setSt (s : State) (b : Byte) : State := { s with st := b }

/-- `keyStates[k]` (R29). -/
def State.keyDown (s : State) (k : Nibble) : Bool := s.keyStates[k.toNat]'k.isLt

/-- `keyStates[k] <- down`; only the host does this (R125). -/
def State.setKeyState (s : State) (k : Nibble) (down : Bool) : State :=
  { s with keyStates := s.keyStates.set k.toNat down k.isLt }

/-- Write `lastKey`; only the host does this (R126). -/
def State.setLast (s : State) (k : Option Nibble) : State := { s with lastKey := k }

/-- Set the fault record (R113). -/
def State.setFault (s : State) (r : FaultRecord) : State := { s with fault := some r }

/-- One more draw taken from outside the core (R12; log entry 6). -/
def State.countDraw (s : State) : State := { s with draws := s.draws + 1 }

/-- The results of a step: its outcome and its requests (R67, R68; log entry 1). -/
def State.report (s : State) (o : StepOutcome) (reqs : List Request) : State :=
  { s with outcome := some o, requests := reqs }

/-- The state without the results of the last step: the core state of R14 and the step's arguments. -/
def State.core (s : State) : State := { s with outcome := none, requests := [] }

/-! ## The program counter -/

/-- `advance` (R72). -/
def State.advance (s : State) : State := s.setPc (s.pc + 2)

/-- `skip_if` (R73). -/
def State.skipIf (s : State) (cond : Bool) : State := s.setPc (if cond then s.pc + 4 else s.pc + 2)

/-! ## The stack (R24) -/

/-- Write entry SP, then increment SP (R23, R79). -/
def State.push (s : State) (h : s.sp.toNat < 16) (w : Word) : State :=
  { s with stack := s.stack.set s.sp.toNat w h, sp := s.sp + 1 }

/-- Decrement SP (R23, R77). -/
def State.pop (s : State) : State := { s with sp := s.sp - 1 }

/-- Entry SP - 1, the one a pop reads (R77). -/
def State.top (s : State) (h : s.sp.toNat - 1 < 16) : Word := s.stack[s.sp.toNat - 1]'h

/-! ## How a step ends -/

/-- `return Advanced`, with the requests the step made (R67). -/
def done (s : State) (reqs : List Request) : Host.Outcome State Fault Refusal :=
  .next (s.report .advanced reqs)

/-- The code of a cause (R114). -/
def FaultCause.code (c : FaultCause) : Nat :=
  match c with
  | .stackOverflow => 1
  | .stackUnderflow => 2
  | .pcOutOfRange => 3
  | .memOutOfRange => 4
  | .keyOutOfRange => 5
  | .lowWriteProtected => 6

/-- `raise Fault(cause, info)` on the state as the step found it: the record is set, no request is made, nothing else
changes and PC stays at the faulting instruction (R113). The step AFTER it is the one that does not exist (R68; log
entry 8). There is no return from a fault: no trap, no handler (R124); only `construct` leaves it (R140). -/
def raiseFault (s : State) (cause : FaultCause) (info : Nat) : Host.Outcome State Fault Refusal :=
  .next ((s.setFault { cause := cause, info := info, pc := s.pc }).report (.fault cause info) [])

/-- An unrecognized word: PC + 2, Invalid, nothing else (R65, R71). -/
def unrecognized (s : State) : Host.Outcome State Fault Refusal := .next (s.advance.report .invalid [])

/-! ## The address checks of R40 -/

/-- MemRead's check of one address. -/
def readFault (a : Nat) : Option (FaultCause × Nat) :=
  if 0xFFF < a then some (.memOutOfRange, a) else none

/-- MemWrite's check of one address. -/
def writeFault (lw : LowWrite) (a : Nat) : Option (FaultCause × Nat) :=
  if 0xFFF < a then some (.memOutOfRange, a)
  else if a < 0x200 ∧ lw = .fault then some (.lowWriteProtected, a)
  else none

/-- The first fault, in rising order, of a check over `n` consecutive addresses: the lowest offending address is the
one recorded (R114). -/
def firstFault (check : Nat → Option (FaultCause × Nat)) : Nat → Nat → Option (FaultCause × Nat)
  | _, 0 => none
  | a, n + 1 =>
    match check a with
    | some f => some f
    | none => firstFault check (a + 1) n

/-- The check of `n` bytes to be read at I (R40, R41). -/
def State.readCheck (s : State) (n : Nat) : Option (FaultCause × Nat) := firstFault readFault s.i.toNat n

/-- The check of `n` bytes to be written at I (R40, R41). -/
def State.writeCheck (s : State) (n : Nat) : Option (FaultCause × Nat) :=
  firstFault (writeFault s.platform.lowWrite) s.i.toNat n

/-! ## Fetch -/

/-- PC lies in the executable window (R69). -/
def State.pcInWindow (s : State) : Bool := s.platform.pcMin ≤ s.pc && s.pc.toNat + 1 ≤ 0xFFF

/-- The word at PC, big-endian (R42, R69). -/
def State.fetchWord (s : State) : Word := wordOfBytes (s.readByte s.pc.toNat) (s.readByte (s.pc.toNat + 1))

end Sys2Proof.Machine
end

