-- ==== Sys2Proof/Machine/Flags.lean ====
section
/-! DEFINITION. Every value VF takes as a flag (spec/10_state.md R27). -/

namespace Sys2Proof.Machine

/-- A flag as the byte VF holds: 1 or 0. -/
def flagByte (b : Bool) : Byte := if b then 1 else 0

/-- 8xy4: unsigned overflow (R92). -/
def carryFlag (a b : Byte) : Byte := flagByte (255 < a.toNat + b.toNat)

/-- 8xy5 and 8xy7: 1 when `a - b` needs no borrow (R93, R96). -/
def noBorrowFlag (a b : Byte) : Byte := flagByte (b.toNat ≤ a.toNat)

/-- 8xy6: bit 0 of the shift source (R95). -/
def shiftedOutRight (src : Byte) : Byte := src &&& 1

/-- 8xyE: bit 7 of the shift source (R97). -/
def shiftedOutLeft (src : Byte) : Byte := src >>> 7

/-- Fx1E: the new I exceeds 0xFFF (R100). -/
def rangeFlag (t : Word) : Byte := flagByte (0xFFF < t.toNat)

/-- The collision bit of draw number `k` for a sprite of these bytes: free, but 0 when no byte has a bit set, the empty
sprite among them (R106, R120; log entry 7). -/
def collisionAnswer (k : Nat) (bytes : List Byte) : Bool := bytes.any (· != 0) && Config.collision k

/-- 8xy1, 8xy2, 8xy3: VF is cleared, last, under Q.logic_vf_reset, else left alone (R88, R89). -/
def State.logicFlag (s : State) : State := if s.quirks.logicVfReset then s.setV vf 0 else s

end Sys2Proof.Machine
end

