-- ==== Sys2Proof/Machine/Operands.lean ====
section
/-! DEFINITION. Operand forms and results of the instructions (spec/30_encoding.md R58, spec/42_register_alu.md,
spec/43_index_memory.md). -/

namespace Sys2Proof.Machine

/-- `zext_16` of an address field (R58). -/
def zextAddr (nnn : Addr) : Word := nnn.setWidth 16

/-- `zext_16` of a register (R10). -/
def zextByte (b : Byte) : Word := b.setWidth 16

/-- A key number as a register holds it (R110). -/
def byteOfKey (k : Nibble) : Byte := k.setWidth 8

/-- The key a register names, when `isKey` holds of it (R107). -/
def keyOfByte (b : Byte) : Nibble := b.setWidth 4

/-- The shift source: Vx under Q.shift_vx, else Vy (R94). -/
def State.shiftSource (s : State) (x y : Nibble) : Byte := if s.quirks.shiftVx then s.getV x else s.getV y

/-- `(a + b) mod 256` (R86, R92). -/
def sumByte (a b : Byte) : Byte := BitVec.ofNat 8 (a.toNat + b.toNat)

/-- `(a + 256 - b) mod 256` (R93, R96). -/
def diffByte (a b : Byte) : Byte := BitVec.ofNat 8 (a.toNat + 256 - b.toNat)

/-- The address of the glyph for a register's value, unmasked (R101). -/
def glyphAddress (b : Byte) : Word := BitVec.ofNat 16 (5 * b.toNat)

/-- The decimal digits of a byte: hundreds, tens, ones (R102). -/
def bcdDigits (b : Byte) : List Byte :=
  [BitVec.ofNat 8 (b.toNat / 100), BitVec.ofNat 8 (b.toNat / 10 % 10), BitVec.ofNat 8 (b.toNat % 10)]

/-- How many registers V0 to Vx are (R103, R104). -/
def regCount (x : Nibble) : Nat := x.toNat + 1

/-- The bytes of V0 to Vx, V0 first (R103). -/
def State.regBytes (s : State) (x : Nibble) : List Byte := s.v.toList.take (regCount x)

/-- The registers with V0 to Vx loaded from the bytes at I (R104). -/
def State.loadedRegs (s : State) (x : Nibble) : Vector Byte 16 :=
  Vector.ofFn fun k : Fin 16 => if k.val ≤ x.toNat then s.readByte (s.i.toNat + k.val) else s.v[k]

/-- I after Fx55 or Fx65: unchanged under Q.ls_keep_i, else x + 1 more (R103, R104). -/
def State.indexAfter (s : State) (x : Nibble) : Word :=
  if s.quirks.lsKeepI then s.i else s.i + BitVec.ofNat 16 (regCount x)

end Sys2Proof.Machine
end

