-- ==== Sys2Proof/Machine/Alu.lean ====
section
/-! DEFINITION. Register loads, the ALU and the random byte (spec/42_register_alu.md). Operands are read from the state
before any write, and VF is written last (R88). -/

namespace Sys2Proof.Machine

/-- `V[x] <- r`, then `advance` (R85 to R87). -/
def loadResult (s : State) (x : Nibble) (r : Byte) : Host.Outcome State Fault Refusal := done (s.setV x r).advance []

/-- `V[x] <- r`, then the logic toggle's write of VF, then `advance` (R88 to R91). -/
def logicResult (s : State) (x : Nibble) (r : Byte) : Host.Outcome State Fault Refusal :=
  done (s.setV x r).logicFlag.advance []

/-- `V[x] <- r`, then `V[15] <- f`, then `advance` (R88). -/
def flagResult (s : State) (x : Nibble) (r f : Byte) : Host.Outcome State Fault Refusal :=
  done ((s.setV x r).setV vf f).advance []

/-- 6xkk LD Vx, kk (R85). -/
def execLdImm (x : Nibble) (kk : Byte) (s : State) : Host.Outcome State Fault Refusal := loadResult s x kk

/-- 7xkk ADD Vx, kk (R86): no flag. -/
def execAddImm (x : Nibble) (kk : Byte) (s : State) : Host.Outcome State Fault Refusal :=
  loadResult s x (sumByte (s.getV x) kk)

/-- 8xy0 LD Vx, Vy (R87). -/
def execLdReg (x y : Nibble) (s : State) : Host.Outcome State Fault Refusal := loadResult s x (s.getV y)

/-- 8xy1 OR Vx, Vy (R89). -/
def execOrReg (x y : Nibble) (s : State) : Host.Outcome State Fault Refusal :=
  logicResult s x (s.getV x ||| s.getV y)

/-- 8xy2 AND Vx, Vy (R90). -/
def execAndReg (x y : Nibble) (s : State) : Host.Outcome State Fault Refusal :=
  logicResult s x (s.getV x &&& s.getV y)

/-- 8xy3 XOR Vx, Vy (R91). -/
def execXorReg (x y : Nibble) (s : State) : Host.Outcome State Fault Refusal :=
  logicResult s x (s.getV x ^^^ s.getV y)

/-- 8xy4 ADD Vx, Vy (R92). -/
def execAddReg (x y : Nibble) (s : State) : Host.Outcome State Fault Refusal :=
  flagResult s x (sumByte (s.getV x) (s.getV y)) (carryFlag (s.getV x) (s.getV y))

/-- 8xy5 SUB Vx, Vy (R93). -/
def execSub (x y : Nibble) (s : State) : Host.Outcome State Fault Refusal :=
  flagResult s x (diffByte (s.getV x) (s.getV y)) (noBorrowFlag (s.getV x) (s.getV y))

/-- 8xy6 SHR Vx, Vy (R94, R95). -/
def execShr (x y : Nibble) (s : State) : Host.Outcome State Fault Refusal :=
  flagResult s x (s.shiftSource x y >>> 1) (shiftedOutRight (s.shiftSource x y))

/-- 8xy7 SUBN Vx, Vy (R96). -/
def execSubn (x y : Nibble) (s : State) : Host.Outcome State Fault Refusal :=
  flagResult s x (diffByte (s.getV y) (s.getV x)) (noBorrowFlag (s.getV y) (s.getV x))

/-- 8xyE SHL Vx, Vy (R94, R97). -/
def execShl (x y : Nibble) (s : State) : Host.Outcome State Fault Refusal :=
  flagResult s x (s.shiftSource x y <<< 1) (shiftedOutLeft (s.shiftSource x y))

/-- Cxkk with the drawn byte `r` (R98); one draw is taken whatever kk is (D40). -/
def rndWith (r : Byte) (x : Nibble) (kk : Byte) (s : State) : Host.Outcome State Fault Refusal :=
  loadResult s.countDraw x (r &&& kk)

/-- Cxkk RND Vx, kk (R98): `r` is the free value of this draw (R12; log entry 6). -/
def execRnd (x : Nibble) (kk : Byte) (s : State) : Host.Outcome State Fault Refusal :=
  rndWith (Config.randomByte s.draws) x kk s

end Sys2Proof.Machine
end

