-- ==== Sys2Proof/Machine/Control.lean ====
section
/-! DEFINITION. Jumps, calls, returns and the compare skips (spec/41_control_flow.md). -/

namespace Sys2Proof.Machine

/-- 00EE RET (R77): the popped value is the CALL's own address, so control goes to the word after it. -/
def execRet (s : State) : Host.Outcome State Fault Refusal :=
  if s.sp = 0 then raiseFault s .stackUnderflow s.pc.toNat
  else if h : s.sp.toNat - 1 < 16 then done (s.pop.setPc (s.top h + 2)) []
  else .fault (.stackPointerInvalid s.sp)

/-- 1nnn JP nnn (R78). -/
def execJp (nnn : Addr) (s : State) : Host.Outcome State Fault Refusal := done (s.setPc (zextAddr nnn)) []

/-- 2nnn CALL nnn (R79): pushes its own address. -/
def execCall (nnn : Addr) (s : State) : Host.Outcome State Fault Refusal :=
  if s.sp = 16 then raiseFault s .stackOverflow s.pc.toNat
  else if h : s.sp.toNat < 16 then done ((s.push h s.pc).setPc (zextAddr nnn)) []
  else .fault (.stackPointerInvalid s.sp)

/-- 3xkk SE Vx, kk (R80). -/
def execSeImm (x : Nibble) (kk : Byte) (s : State) : Host.Outcome State Fault Refusal :=
  done (s.skipIf (s.getV x == kk)) []

/-- 4xkk SNE Vx, kk (R81). -/
def execSneImm (x : Nibble) (kk : Byte) (s : State) : Host.Outcome State Fault Refusal :=
  done (s.skipIf (s.getV x != kk)) []

/-- 5xy0 SE Vx, Vy (R82). -/
def execSeReg (x y : Nibble) (s : State) : Host.Outcome State Fault Refusal :=
  done (s.skipIf (s.getV x == s.getV y)) []

/-- 9xy0 SNE Vx, Vy (R83). -/
def execSneReg (x y : Nibble) (s : State) : Host.Outcome State Fault Refusal :=
  done (s.skipIf (s.getV x != s.getV y)) []

/-- Bnnn JP V0, nnn (R84): the sum is not masked. -/
def execJpV0 (nnn : Addr) (s : State) : Host.Outcome State Fault Refusal :=
  done (s.setPc (zextAddr nnn + zextByte (s.getV 0))) []

end Sys2Proof.Machine
end

