-- ==== Sys2Proof/Machine/Devices.lean ====
section
/-! DEFINITION. Display requests, key input and timer access (spec/44_display_input_timers.md). -/

namespace Sys2Proof.Machine

/-- 00E0 CLS (R105). -/
def execCls (s : State) : Host.Outcome State Fault Refusal := done s.advance [.clearScreen]

/-- Dxyn once its addresses are checked, with the collision answer `c` (R106). -/
def drawWith (c : Bool) (bytes : List Byte) (x y n : Nibble) (s : State) : Host.Outcome State Fault Refusal :=
  done (s.countDraw.setV vf (flagByte c)).advance [.drawSprite bytes (s.getV x) (s.getV y) n s.quirks.wrap]

/-- Dxyn DRW Vx, Vy, n (R106): the sprite is the n bytes at I, and VF takes the host's answer, a free value that meets
R120's duty (log entry 7). -/
def execDrw (x y n : Nibble) (s : State) : Host.Outcome State Fault Refusal :=
  match s.readCheck n.toNat with
  | some f => raiseFault s f.1 f.2
  | none =>
    let bytes := Memory.readBytes s.mem s.i.toNat n.toNat
    drawWith (collisionAnswer s.draws bytes) bytes x y n s

/-- The skip of Ex9E and ExA1: taken when the key named by the register is down or not, as `wanted` says (R107, R108). -/
def skipOnKey (k : Byte) (wanted : Bool) (s : State) : Host.Outcome State Fault Refusal :=
  if isKey k then done (s.skipIf (s.keyDown (keyOfByte k) == wanted)) []
  else raiseFault s .keyOutOfRange k.toNat

/-- Ex9E SKP Vx (R107). -/
def execSkp (x : Nibble) (s : State) : Host.Outcome State Fault Refusal := skipOnKey (s.getV x) true s

/-- ExA1 SKNP Vx (R108). -/
def execSknp (x : Nibble) (s : State) : Host.Outcome State Fault Refusal := skipOnKey (s.getV x) false s

/-- Fx07 LD Vx, DT (R109). -/
def execLdVDt (x : Nibble) (s : State) : Host.Outcome State Fault Refusal := done (s.setV x s.dt).advance []

/-- Fx0A LD Vx, K (R110): with no key recorded the step changes nothing and is run again. -/
def execLdVK (x : Nibble) (s : State) : Host.Outcome State Fault Refusal :=
  match s.lastKey with
  | none => .next (s.report .awaitingInput [])
  | some k => done (s.setV x (byteOfKey k)).advance []

/-- Fx15 LD DT, Vx (R111). -/
def execLdDtV (x : Nibble) (s : State) : Host.Outcome State Fault Refusal := done (s.setDt (s.getV x)).advance []

/-- Fx18 LD ST, Vx (R112). -/
def execLdStV (x : Nibble) (s : State) : Host.Outcome State Fault Refusal := done (s.setSt (s.getV x)).advance []

end Sys2Proof.Machine
end

