-- ==== Sys2Proof/Machine/Index.lean ====
section
/-! DEFINITION. The index register and the memory transfers (spec/43_index_memory.md). Every address check comes before
the first write (R40, R113). -/

namespace Sys2Proof.Machine

/-- Annn LD I, nnn (R99). -/
def execLdI (nnn : Addr) (s : State) : Host.Outcome State Fault Refusal := done (s.setI (zextAddr nnn)).advance []

/-- Fx1E ADD I, Vx (R100): I is not masked, and VF takes the range flag last. -/
def execAddI (x : Nibble) (s : State) : Host.Outcome State Fault Refusal :=
  done ((s.setI (s.i + zextByte (s.getV x))).setV vf (rangeFlag (s.i + zextByte (s.getV x)))).advance []

/-- Fx29 LD F, Vx (R101). -/
def execLdF (x : Nibble) (s : State) : Host.Outcome State Fault Refusal :=
  done (s.setI (glyphAddress (s.getV x))).advance []

/-- Fx33 LD B, Vx (R102). -/
def execLdB (x : Nibble) (s : State) : Host.Outcome State Fault Refusal :=
  match s.writeCheck 3 with
  | some f => raiseFault s f.1 f.2
  | none => done (s.setMem (Memory.writeBytes s.mem s.i.toNat (bcdDigits (s.getV x)))).advance []

/-- Fx55 LD [I], Vx (R103). -/
def execLdMemV (x : Nibble) (s : State) : Host.Outcome State Fault Refusal :=
  match s.writeCheck (regCount x) with
  | some f => raiseFault s f.1 f.2
  | none =>
    done ((s.setMem (Memory.writeBytes s.mem s.i.toNat (s.regBytes x))).setI (s.indexAfter x)).advance []

/-- Fx65 LD Vx, [I] (R104). -/
def execLdVMem (x : Nibble) (s : State) : Host.Outcome State Fault Refusal :=
  match s.readCheck (regCount x) with
  | some f => raiseFault s f.1 f.2
  | none => done ((s.setAllV (s.loadedRegs x)).setI (s.indexAfter x)).advance []

end Sys2Proof.Machine
end

