-- ==== Sys2Proof/Machine/Step.lean ====
section
/-! DEFINITION. One step: fetch, decode, execute (spec/40_step_cycle.md R67 to R71, R74, R116). -/

namespace Sys2Proof.Machine

/-- One step, its checks in R116's order. A state with a fault recorded has no step (R68); the fetch window comes next
(R69), then the decoding (R70, R71), then the instruction with its own checks. -/
def step (s : State) : Host.Outcome State Fault Refusal :=
  match s.fault with
  | some r => .fault (.stopped r)
  | none =>
    if s.pcInWindow then
      match decode s.fetchWord with
      | .ok i => exec i s
      | .error _ => unrecognized s
    else raiseFault s .pcOutOfRange s.pc.toNat

/-- `s` with the table's word stored where the next fetch reads it, high byte at PC (R42, R69; log entry 11). -/
def State.withFetchWord (s : State) (nbits w : Nat) : State :=
  s.setMem (Memory.writeBytes s.mem s.pc.toNat [highByte (tableWord nbits w), lowByte (tableWord nbits w)])

end Sys2Proof.Machine
end

