-- ==== Sys2Proof/Machine/Debug.lean ====
section
/-! DEFINITION. The optional debug controller, an observer outside the core (spec/60_exceptions.md R133, R134; log
entry 13). It reads a state and writes none. -/

namespace Sys2Proof.Machine

/-- The categories a step can be classified into (R134). -/
inductive DebugCategory where
  | jump
  | call
  | ret
  | skip
  | draw
  | keyWait
  | keySkip
deriving DecidableEq, Repr

/-- The category of an instruction, by the reading R134 gives (the spec's own, D38). -/
def debugCategory (i : Instr) : Option DebugCategory :=
  match i with
  | .jp _ | .jpV0 _ => some .jump
  | .call _ => some .call
  | .ret => some .ret
  | .seImm _ _ | .sneImm _ _ | .seReg _ _ | .sneReg _ _ => some .skip
  | .drw _ _ _ => some .draw
  | .ldVK _ => some .keyWait
  | .skp _ | .sknp _ => some .keySkip
  | .cls | .ldImm _ _ | .addImm _ _ | .ldReg _ _ | .orReg _ _ | .andReg _ _ | .xorReg _ _ | .addReg _ _ | .sub _ _
  | .shr _ _ | .subn _ _ | .shl _ _ | .ldI _ | .rnd _ _ | .ldVDt _ | .ldDtV _ | .ldStV _ | .addI _ | .ldF _ | .ldB _
  | .ldMemV _ | .ldVMem _ => none

/-- The controller: the armed categories and the breakpoints, at even addresses of program space (R134). -/
structure DebugController where
  armed : List DebugCategory
  breakpoints : List Word
deriving DecidableEq, Repr

/-- Every breakpoint is one the set has an entry for (R134). -/
def DebugController.wf (d : DebugController) : Bool := d.breakpoints.all breakpointOk

/-- The category of the word the state would fetch, none for an unrecognized word or outside the window (R134). -/
def State.fetchedCategory (s : State) : Option DebugCategory :=
  if s.pcInWindow then
    match decode s.fetchWord with
    | .ok i => debugCategory i
    | .error _ => none
  else none

/-- The controller asks for a pause after the step of this state: its PC carries a breakpoint or its word is of an armed
category (R134). -/
def DebugController.wantsPause (d : DebugController) (s : State) : Bool :=
  d.breakpoints.contains s.pc ||
    (match s.fetchedCategory with
     | some c => d.armed.contains c
     | none => false)

end Sys2Proof.Machine
end

