-- ==== Sys2Proof/Machine/Display.lean ====
section
/-! DEFINITION. The optional reference host display (spec/60_exceptions.md R119, R120, R122): host side, no part of the
core and none of State (R4, R14; log entry 12). -/

namespace Sys2Proof.Machine

/-- A grid of W x H pixels, held as the pixels that are set, none twice (R122). -/
structure Display where
  width : Nat
  height : Nat
  lit : List (Nat × Nat)
deriving DecidableEq, Repr

/-- The conventional 64 x 32 grid, all unset (R8, R122; PRESUMED, G4; log entry 12). -/
def Display.conventional : Display := { width := 64, height := 32, lit := [] }

/-- `clear()`: every pixel unset (R119, R122). -/
def Display.clear (d : Display) : Display := { d with lit := [] }

/-- XOR one pixel of the grid; the second part says whether it was set (R122). -/
def Display.toggle (d : Display) (p : Nat × Nat) : Display × Bool :=
  if d.lit.contains p then ({ d with lit := d.lit.filter (· != p) }, true)
  else ({ d with lit := p :: d.lit }, false)

/-- One set sprite pixel: wrapped or clipped, then toggled; the flag gathers the collisions (R122). -/
def Display.plot (wrap : Bool) (p : Nat × Nat) (dc : Display × Bool) : Display × Bool :=
  let q := if wrap then (p.1 % dc.1.width, p.2 % dc.1.height) else p
  if q.1 < dc.1.width ∧ q.2 < dc.1.height then
    let r := dc.1.toggle q
    (r.1, dc.2 || r.2)
  else dc

/-- One sprite row at (x0, y); bit 7 is the leftmost pixel (R122). -/
def Display.drawRow (wrap : Bool) (x0 y : Nat) (row : Byte) (dc : Display × Bool) : Display × Bool :=
  (List.range 8).foldl (fun dc b => if row.getLsbD (7 - b) then Display.plot wrap (x0 + b, y) dc else dc) dc

/-- The rows from y down, top row first (R122). -/
def Display.drawRows (wrap : Bool) (x0 : Nat) : Nat → List Byte → Display × Bool → Display × Bool
  | _, [], dc => dc
  | y, row :: rows, dc => Display.drawRows wrap x0 (y + 1) rows (Display.drawRow wrap x0 y row dc)

/-- `draw(bytes, xc, yc, n, wrap)`, n the number of bytes: the new grid and the collision flag (R120, R122). -/
def Display.draw (d : Display) (bytes : List Byte) (xc yc : Byte) (wrap : Bool) : Display × Bool :=
  Display.drawRows wrap (xc.toNat % d.width) (yc.toNat % d.height) bytes (d, false)

/-- The display serves the requests of the step that left `s`: a clear empties the grid; a draw updates it, and its
answer takes the place of the free one in VF, the last register the step wrote (R106, R122). -/
def Display.serve (d : Display) (s : State) : Display × State :=
  match s.requests with
  | [.clearScreen] => (d.clear, s)
  | [.drawSprite bytes x y _ wrap] => ((d.draw bytes x y wrap).1, s.setV vf (flagByte (d.draw bytes x y wrap).2))
  | _ => (d, s)

/-- One step of the core with the reference display as its host (R122). -/
def stepOnDisplay (d : Display) (s : State) : Host.Outcome (Display × State) Fault Refusal :=
  match step s with
  | .next s' => .next (d.serve s')
  | .fault r => .fault r
  | .refused r => .refused r

end Sys2Proof.Machine
end

