-- ==== Sys2Proof/Machine/Transactions.lean ====
section
/-! DEFINITION. The block's interface as atomic transactions, the host's and the clock's beside the step's, and
executions as schedules of them (spec/00_scope.md R13, spec/60_exceptions.md R117, R125 to R128, spec/70_reset_and_hazards.md
R137 to R140). -/

namespace Sys2Proof.Machine

/-- The timer countdown unit (R117): each non-zero timer loses 1, a timer at 0 stays at 0. -/
def tick (s : State) : State :=
  (s.setDt (if s.dt = 0 then 0 else s.dt - 1)).setSt (if s.st = 0 then 0 else s.st - 1)

/-- `loadTypography` (R35, R138): the 80 bytes at 0x000, nothing else. -/
def loadTypography (font : Font) (s : State) : State := s.setMem (Memory.writeBytes s.mem 0 font.toList)

/-- `construct(FONT)` (R36, R137, R140), on a machine of the old state's platform, under its quirks and going on with
its draws, none of which is the core's state (log entry 16). -/
def construct (font : Font) (s : State) : State :=
  loadTypography font { State.reset with quirks := s.quirks, platform := s.platform, draws := s.draws }

/-- `loadROM` (R139): the bytes at 0x200, or a refusal where they do not fit. -/
def loadRom (bytes : List Byte) (s : State) : Host.Outcome State Fault Refusal :=
  if romFits bytes then .next (s.setMem (Memory.writeBytes s.mem 0x200 bytes))
  else .refused (.romTooLong bytes.length)

/-- `setLastKey` (R126): only while no key is recorded. -/
def setLastKey (k : Nibble) (s : State) : Host.Outcome State Fault Refusal :=
  match s.lastKey with
  | none => .next (s.setLast (some k))
  | some held => .refused (.lastKeyHeld held)

/-- The transactions of R13. -/
inductive Transaction where
  | construct (font : Font)
  | loadTypography (font : Font)
  | loadRom (bytes : List Byte)
  /-- `step(Q)`: the host passes a Quirk Configuration with every step (R6, R144). -/
  | step (q : Quirks)
  | setKey (k : Nibble) (down : Bool)
  | setLastKey (k : Nibble)
  | clearLastKey
  | tick
deriving DecidableEq, Repr

/-- `step(s, Q)`: the step under a configuration (R68). -/
def stepUnder (q : Quirks) (s : State) : Host.Outcome State Fault Refusal := step { s with quirks := q }

/-- One transaction (R13, R128). -/
def transact (t : Transaction) (s : State) : Host.Outcome State Fault Refusal :=
  match t with
  | .construct font => .next (construct font s)
  | .loadTypography font => .next (loadTypography font s)
  | .loadRom bytes => loadRom bytes s
  | .step q => stepUnder q s
  | .setKey k down => .next (s.setKeyState k down)
  | .setLastKey k => setLastKey k s
  | .clearLastKey => .next (s.setLast none)
  | .tick => .next (tick s)

/-- An execution: transactions in their total order (R49, R128), up to the first stop or refusal. -/
def runSchedule : List Transaction → State → Host.Outcome State Fault Refusal
  | [], s => .next s
  | t :: ts, s =>
    match transact t s with
    | .next s' => runSchedule ts s'
    | .fault r => .fault r
    | .refused r => .refused r

end Sys2Proof.Machine
end

