-- ==== Sys2Proof/Safety.lean ====
section
/-! DEFINITION. The terms claims are stated in: well-formed states, what a step leaves unchanged, the ends of a
run, the pixels a sprite falls on (spec/10_state.md R33, spec/40_step_cycle.md R75, spec/60_exceptions.md R120, R122,
R135). -/

namespace Sys2Proof.Machine

/-! ## Well-formed states -/

/-- R33: at most 16 stack entries are in use. -/
abbrev State.WellFormed (s : State) : Prop := s.sp.toNat ≤ 16

/-- Memory is in its canonical form. -/
abbrev State.Canonical (s : State) : Prop := Memory.wf s.mem = true

/-- R20: PC is at most 0x10FE, and every stack entry is an address a CALL was fetched from. -/
def State.PcBounded (s : State) : Prop :=
  s.pc.toNat ≤ 0x10FE ∧ ∀ (j : Nat) (h : j < 16), (s.stack[j]'h).toNat ≤ 0xFFE

/-- R113, R118: what a step reports. A fault outcome goes with the record of that fault and no request; no other
outcome goes with a record; there is at most one request, and only an advancing step makes one. -/
def State.ReportSound (s : State) : Prop :=
  s.requests.length ≤ 1 ∧
  (s.requests ≠ [] → s.outcome = some .advanced) ∧
  (∀ c info, s.outcome = some (.fault c info) ↔ ∃ r, s.fault = some r ∧ r.cause = c ∧ r.info = info)

/-! ## What an instruction leaves unchanged -/

/-- What a statement's instructions may change besides PC and the step's results; everything else is unchanged. -/
structure Touched where
  /-- The destination registers. -/
  regs : List Nibble := []
  index : Bool := false
  stack : Bool := false
  dt : Bool := false
  st : Bool := false
  draws : Bool := false
  /-- The first address stored to. -/
  memFrom : Nat := 0
  /-- How many bytes are stored, none by default. -/
  memLen : Nat := 0

/-- `t` differs from `s` at most where `c` allows, in PC, and in the step's results: R75's frame. Key state, lastKey,
fault, quirks and platform are never a destination. -/
def Unchanged (c : Touched) (s t : State) : Prop :=
  (∀ r, r ∉ c.regs → t.getV r = s.getV r) ∧
  (c.index = false → t.i = s.i) ∧
  (c.stack = false → t.sp = s.sp ∧ t.stack = s.stack) ∧
  (c.dt = false → t.dt = s.dt) ∧
  (c.st = false → t.st = s.st) ∧
  (c.draws = false → t.draws = s.draws) ∧
  (∀ a, ¬ (c.memFrom ≤ a ∧ a < c.memFrom + c.memLen) → t.readByte a = s.readByte a) ∧
  t.keyStates = s.keyStates ∧ t.lastKey = s.lastKey ∧ t.fault = s.fault ∧
  t.quirks = s.quirks ∧ t.platform = s.platform

/-- The step ended Advanced with no request of the host. -/
abbrev Quiet (t : State) : Prop := t.outcome = some .advanced ∧ t.requests = []

/-- The step faulted, precisely (R113): the record, the outcome and no request; everything else as it was. -/
abbrev FaultTaken (cause : FaultCause) (info : Nat) (s t : State) : Prop :=
  t = { s with fault := some { cause := cause, info := info, pc := s.pc },
               outcome := some (.fault cause info), requests := [] }

/-- The instruction `i` completes as an OR, AND or XOR into Vx with the result `r` (R89 to R91): Vx takes `r` unless the
logic toggle clears it as VF; VF is 0 under the toggle and otherwise written only as Vx; nothing else changes. -/
def LogicCompletes (i : Instr) (x : Nibble) (r : Byte) (s : State) : Prop :=
  ∃ t, exec i s = .next t ∧
    (x ≠ vf ∨ s.quirks.logicVfReset = false → t.getV x = r) ∧
    (s.quirks.logicVfReset = true → t.getV vf = 0) ∧
    (s.quirks.logicVfReset = false → x ≠ vf → t.getV vf = s.getV vf) ∧
    t.pc = s.pc + 2 ∧ Quiet t ∧ Unchanged { regs := [x, vf] } s t

/-- The registers V0 to Vx. -/
def regsUpTo (x : Nibble) : List Nibble := (List.range (x.toNat + 1)).map (BitVec.ofNat 4)

/-- The "writes" column of R17: the general registers an instruction may write under a configuration. -/
def writtenRegs (q : Quirks) (i : Instr) : List Nibble :=
  match i with
  | .ldImm x _ | .addImm x _ | .ldReg x _ | .rnd x _ | .ldVDt x | .ldVK x => [x]
  | .orReg x _ | .andReg x _ | .xorReg x _ => if q.logicVfReset then [x, vf] else [x]
  | .addReg x _ | .sub x _ | .subn x _ | .shr x _ | .shl x _ => [x, vf]
  | .drw _ _ _ | .addI _ => [vf]
  | .ldVMem x => regsUpTo x
  | .cls | .ret | .jp _ | .call _ | .seImm _ _ | .sneImm _ _ | .seReg _ _ | .sneReg _ _ | .ldI _ | .jpV0 _
  | .skp _ | .sknp _ | .ldDtV _ | .ldStV _ | .ldF _ | .ldB _ | .ldMemV _ => []

/-- The bytes an instruction of this state stores to, as R39 lists them: first address and count. -/
def storedBytes (s : State) (i : Instr) : Nat × Nat :=
  match i with
  | .ldB _ => (s.i.toNat, 3)
  | .ldMemV x => (s.i.toNat, x.toNat + 1)
  | .cls | .ret | .jp _ | .call _ | .seImm _ _ | .sneImm _ _ | .seReg _ _ | .sneReg _ _ | .ldI _ | .jpV0 _
  | .skp _ | .sknp _ | .ldDtV _ | .ldStV _ | .ldF _ | .ldImm _ _ | .addImm _ _ | .ldReg _ _ | .rnd _ _ | .ldVDt _
  | .ldVK _ | .orReg _ _ | .andReg _ _ | .xorReg _ _ | .addReg _ _ | .sub _ _ | .subn _ _ | .shr _ _ | .shl _ _
  | .drw _ _ _ | .addI _ | .ldVMem _ => (0, 0)

/-! ## The ends of a run (R135) -/

/-- A step returned Fault. -/
def FaultStop (s : State) : Prop := s.fault ≠ none

/-- PC addresses a fetched JP to that PC. -/
def SelfLoop (s : State) : Prop :=
  s.fault = none ∧ s.pcInWindow = true ∧ ∃ nnn, decode s.fetchWord = .ok (.jp nnn) ∧ zextAddr nnn = s.pc

/-- PC addresses a fetched Fx0A and no key is recorded. -/
def Waiting (s : State) : Prop :=
  s.fault = none ∧ s.pcInWindow = true ∧ s.lastKey = none ∧ ∃ x, decode s.fetchWord = .ok (.ldVK x)

/-! ## The pixels of a sprite (R122) -/

/-- The pixel of the grid on which column `b` of row `r` of a sprite drawn at (xc, yc) falls, wrapped under the toggle;
none where it is beyond the edge and so clipped (R120, R122). -/
def Display.pixelAt (d : Display) (xc yc : Byte) (wrap : Bool) (r b : Nat) : Option (Nat × Nat) :=
  let p := (xc.toNat % d.width + b, yc.toNat % d.height + r)
  let q := if wrap then (p.1 % d.width, p.2 % d.height) else p
  if q.1 < d.width ∧ q.2 < d.height then some q else none

/-- The pixels one row's set bits fall on, in the order they are drawn; bit 7 is column 0 (R122). -/
def Display.rowPixels (d : Display) (xc yc : Byte) (wrap : Bool) (r : Nat) (row : Byte) : List (Nat × Nat) :=
  (List.range 8).filterMap fun b => if row.getLsbD (7 - b) then d.pixelAt xc yc wrap r b else none

/-- The pixels a sprite's set bits fall on, in the order they are drawn, top row first; a pixel stands in the list as
often as the sprite covers it, which is more than once only where wrapping folds the sprite onto itself (R122). -/
def Display.spritePixels (d : Display) (bytes : List Byte) (xc yc : Byte) (wrap : Bool) : List (Nat × Nat) :=
  bytes.zipIdx.flatMap fun (row, r) => d.rowPixels xc yc wrap r row

end Sys2Proof.Machine
end

