-- ==== Sys2Proof/Certificates/Slice0/Obligations.lean ====
section
/-! DEFINITION. The statements for the provers, from the numbered rules of spec/. A statement about one instruction
gives its encoding, its next state and its frame; `t` is always the state after. -/

open Sys2Proof Sys2Proof.Machine

/-! ## Encoding and decoding -/

/-- Every instruction, at every operand, decodes from its own word and from its own two bytes, big-endian, with the
bytes after it left over (30_encoding.md R54 to R58; 20_memory.md R42). -/
def Obligations.DecodeOfEncodeIsTheInstruction : Prop :=
  ∀ i : Instr, decode (encode i) = .ok i ∧
    ∀ rest : List Byte, decodeBytes (encodeBytes i ++ rest) = .ok (i, rest)

/-- The other direction: a word that decodes to an instruction is that instruction's only encoding, so no bit of a
recognized word is dropped (R55, R57). -/
def Obligations.EncodeOfDecodeIsTheWord : Prop :=
  ∀ (w : Word) (i : Instr), decode w = .ok i → encode i = w

/-- The decoder accepts exactly the words some row of the opcode table matches, and no word matches two rows (R59,
R65: "no word matches two rows", the spec's own derivation). -/
def Obligations.DecoderAcceptsExactlyTheTableWords : Prop :=
  (∀ w : Word, (∃ i, decode w = .ok i) ↔ recognized w = true) ∧
  ∀ (w : Word) (r r' : OpcodeRow), r ∈ opcodeTable → r' ∈ opcodeTable →
    r.matches w = true → r'.matches w = true → r = r'

/-- One word of every family, written out from R59 to R64, and the words R61 and 95_test_vectors.md give as
unrecognized. -/
def Obligations.WrittenOutWordsDecode : Prop :=
  decode 0x00E0 = .ok .cls ∧ decode 0x1234 = .ok (.jp 0x234) ∧ decode 0x2210 = .ok (.call 0x210) ∧
  decode 0x332A = .ok (.seImm 3 0x2A) ∧ decode 0x432B = .ok (.sneImm 3 0x2B) ∧ decode 0x5120 = .ok (.seReg 1 2) ∧
  decode 0x6A2B = .ok (.ldImm 0xA 0x2B) ∧ decode 0x71FF = .ok (.addImm 1 0xFF) ∧ decode 0x810E = .ok (.shl 1 0) ∧
  decode 0x9120 = .ok (.sneReg 1 2) ∧ decode 0xA300 = .ok (.ldI 0x300) ∧ decode 0xBFFF = .ok (.jpV0 0xFFF) ∧
  decode 0xC30F = .ok (.rnd 3 0x0F) ∧ decode 0xD015 = .ok (.drw 0 1 5) ∧ decode 0xE5A1 = .ok (.sknp 5) ∧
  decode 0xF265 = .ok (.ldVMem 2) ∧ decode 0x5001 = .error (.compareLowNibble 0x5001) ∧
  decode 0x0123 = .error (.family0 0x0123) ∧ decode 0x8128 = .error (.aluSubcode 0x8128) ∧
  decode 0xE19F = .error (.keySubcode 0xE19F) ∧ decode 0xF1FF = .error (.miscSubcode 0xF1FF)

/-! ## The step -/

/-- When the two bytes at PC, read big-endian, are an instruction's word, a step is exactly that instruction's
execution: nothing is added around it (R69, R70, R74; PC still holds the instruction's own address, R18). -/
def Obligations.StepRunsTheDecodedInstruction : Prop :=
  ∀ (s : State) (i : Instr), s.fault = none → s.platform.pcMin.toNat ≤ s.pc.toNat → s.pc.toNat + 1 ≤ 0xFFF →
    (encode i).toNat = (s.readByte s.pc.toNat).toNat * 256 + (s.readByte (s.pc.toNat + 1)).toNat →
    step s = exec i s

/-- A word stored where the next fetch reads it is the instruction the next step runs, and only the two bytes at PC
have changed (R42, R52; the host's `withFetchWord`, log entry 11). -/
def Obligations.StoredInstructionRunsNext : Prop :=
  ∀ (s : State) (i : Instr), s.fault = none → s.platform.pcMin.toNat ≤ s.pc.toNat → s.pc.toNat + 1 ≤ 0xFFF →
    step (s.withFetchWord 16 (encode i).toNat) = exec i (s.withFetchWord 16 (encode i).toNat) ∧
    decodeTableWord 16 (encode i).toNat = some i ∧
    (s.withFetchWord 16 (encode i).toNat).setMem s.mem = s ∧
    ∀ a, a ≠ s.pc.toNat → a ≠ s.pc.toNat + 1 →
      (s.withFetchWord 16 (encode i).toNat).readByte a = s.readByte a

/-- R71: a word no row of the table matches advances PC by 2 and returns Invalid; no other state changes and no
request is made. -/
def Obligations.UnrecognizedWordIsInvalid : Prop :=
  ∀ s : State, s.fault = none → s.pcInWindow = true → recognized s.fetchWord = false →
    step s = .next { s with pc := s.pc + 2, outcome := some .invalid, requests := [] }

/-- A fetch that starts below PC_MIN or whose second byte lies above 0xFFF faults PcOutOfRange whatever memory holds,
and changes nothing but the record and the results (R69, R116; that the check stands at the fetch is the spec's own
choice D5). -/
def Obligations.FetchOutsideTheWindowFaults : Prop :=
  ∀ s : State, s.fault = none → (s.pc.toNat < s.platform.pcMin.toNat ∨ 0xFFF < s.pc.toNat + 1) →
    ∃ t, step s = .next t ∧ FaultTaken .pcOutOfRange s.pc.toNat s t

/-- A state with a fault recorded has no step: the machine is stopped for good (R68, R113; the spec's own choice D3, and
log entry 8 for how the stop is shown). -/
def Obligations.FaultedStateHasNoStep : Prop :=
  ∀ (s : State) (r : FaultRecord), s.fault = some r → step s = .fault (.stopped r)

/-- Every step of a well-formed, unfaulted state answers a next state: no refusal and no stop (R33, R74). -/
def Obligations.EveryWellFormedStateSteps : Prop :=
  ∀ s : State, s.WellFormed → s.fault = none → ∃ t, step s = .next t

/-- A step that leaves a fault recorded is precise: everything but the record and the results is as the step found it,
no request is made, and the record's PC is the faulting instruction's (R113; the spec's own choice D3). -/
def Obligations.FaultsArePrecise : Prop :=
  ∀ s t : State, step s = .next t → t.fault ≠ none → ∃ cause info, FaultTaken cause info s t

/-- What any step reports: at most one request, made only by a step that advanced, and a fault outcome exactly when its
fault is recorded (R68, R113, R118). -/
def Obligations.StepReportsAreSound : Prop :=
  ∀ s t : State, step s = .next t → t.ReportSound

/-! ## Invariants -/

/-- Every step keeps SP at most 16 and memory in its canonical form (R33, the spec's derivation). -/
def Obligations.StepKeepsStateWellFormed : Prop :=
  ∀ s t : State, s.WellFormed → s.Canonical → step s = .next t → t.WellFormed ∧ t.Canonical

/-- Every step keeps PC at most 0x10FE and every stack entry at most 0xFFE, so PC never wraps (R20, the spec's
derivation). -/
def Obligations.StepKeepsPcBounded : Prop :=
  ∀ s t : State, s.PcBounded → step s = .next t → t.PcBounded

/-- The state after reset meets every invariant (R33, R36). -/
def Obligations.ResetMeetsTheInvariants : Prop :=
  State.reset.WellFormed ∧ State.reset.Canonical ∧ State.reset.PcBounded ∧ State.reset.ReportSound

/-- Every transaction of the block's interface keeps the invariants (R13, R33). -/
def Obligations.TransactionsKeepTheInvariants : Prop :=
  ∀ (a : Transaction) (s t : State), s.WellFormed → s.Canonical → s.PcBounded → s.ReportSound →
    transact a s = .next t → t.WellFormed ∧ t.Canonical ∧ t.PcBounded ∧ t.ReportSound

/-! ## Whole-machine rules -/

/-- No instruction writes DT but Fx15, ST but Fx18, SP or the stack but 2nnn and 00EE, I but its five writers, or a
byte of memory but those R39 gives Fx33 and Fx55; none writes the key state, lastKey, the quirks or the platform, and
only Cxkk and Dxyn take a draw (R21, R39, R68, R75). -/
def Obligations.OnlyTheNamedInstructionsWrite : Prop :=
  ∀ (i : Instr) (s t : State), exec i s = .next t →
    ((∀ x, i ≠ .ldDtV x) → t.dt = s.dt) ∧
    ((∀ x, i ≠ .ldStV x) → t.st = s.st) ∧
    ((∀ nnn, i ≠ .call nnn) → i ≠ .ret → t.sp = s.sp ∧ t.stack = s.stack) ∧
    ((∀ nnn, i ≠ .ldI nnn) → (∀ x, i ≠ .addI x ∧ i ≠ .ldF x ∧ i ≠ .ldMemV x ∧ i ≠ .ldVMem x) → t.i = s.i) ∧
    (∀ a, ¬ ((storedBytes s i).1 ≤ a ∧ a < (storedBytes s i).1 + (storedBytes s i).2) →
      t.readByte a = s.readByte a) ∧
    ((∀ x kk, i ≠ .rnd x kk) → (∀ x y n, i ≠ .drw x y n) → t.draws = s.draws) ∧
    t.keyStates = s.keyStates ∧ t.lastKey = s.lastKey ∧ t.quirks = s.quirks ∧ t.platform = s.platform

/-- A general register outside the "writes" column of R17 keeps its value. -/
def Obligations.OnlyTheListedRegistersAreWritten : Prop :=
  ∀ (i : Instr) (s t : State), exec i s = .next t →
    ∀ r, r ∉ writtenRegs s.quirks i → t.getV r = s.getV r

/-- No instruction reads ST: two states that differ only in ST answer next states that differ at most in ST (R26). -/
def Obligations.SoundTimerIsNeverRead : Prop :=
  ∀ (i : Instr) (s t : State) (b : Byte), exec i s = .next t →
    ∃ u, exec i (s.setSt b) = .next u ∧ u.setSt 0 = t.setSt 0

/-- Only Fx0A reads lastKey, and only Ex9E and ExA1 read the key state (R29, R30). -/
def Obligations.OnlyTheKeyInstructionsReadKeys : Prop :=
  ∀ (i : Instr) (s t : State), exec i s = .next t →
    ((∀ x, i ≠ .ldVK x) → ∀ k, ∃ u, exec i (s.setLast k) = .next u ∧ u.setLast none = t.setLast none) ∧
    ((∀ x, i ≠ .skp x ∧ i ≠ .sknp x) → ∀ k down, ∃ u, exec i (s.setKeyState k down) = .next u ∧
      ({ u with keyStates := s.keyStates } : State) = t)

/-! ## Control flow and the stack -/

/-- R78: JP sets PC to nnn and does nothing else; a target outside the window faults at the next fetch, not here. -/
def Obligations.JpSetsThePc : Prop :=
  (∀ w : Word, fieldFamily w = 1 → decode w = .ok (.jp (fieldNnn w))) ∧
  ∀ (nnn : Addr) (s : State), ∃ t, exec (.jp nnn) s = .next t ∧
    t.pc.toNat = nnn.toNat ∧ Quiet t ∧ Unchanged {} s t ∧
    (s.fault = none → (nnn.toNat < s.platform.pcMin.toNat ∨ nnn = 0xFFF) →
      ∃ u, step t = .next u ∧ FaultTaken .pcOutOfRange nnn.toNat t u)

/-- CALL pushes its own address and jumps, while an entry is free (R79; that the pushed value is the CALL's own address
is the spec's own choice D7). -/
def Obligations.CallPushesAndJumps : Prop :=
  (∀ w : Word, fieldFamily w = 2 → decode w = .ok (.call (fieldNnn w))) ∧
  ∀ (nnn : Addr) (s : State) (h : s.sp.toNat < 16), ∃ t, exec (.call nnn) s = .next t ∧
    t.pc.toNat = nnn.toNat ∧ t.sp.toNat = s.sp.toNat + 1 ∧ t.stack[s.sp.toNat] = s.pc ∧
    (∀ (j : Nat) (hj : j < 16), j ≠ s.sp.toNat → t.stack[j] = s.stack[j]) ∧
    Quiet t ∧ Unchanged { stack := true } s t

/-- RET goes to the word after the CALL whose address it pops, and clears no entry (R77; the 2 added at the pop is the
spec's own choice D7). -/
def Obligations.RetPopsAndReturns : Prop :=
  decode 0x00EE = .ok .ret ∧
  ∀ (s : State) (h0 : 0 < s.sp.toNat) (h : s.sp.toNat ≤ 16), ∃ t, exec .ret s = .next t ∧
    t.sp.toNat = s.sp.toNat - 1 ∧ t.pc = s.stack[s.sp.toNat - 1] + 2 ∧ t.stack = s.stack ∧
    Quiet t ∧ Unchanged { stack := true } s t

/-- A push with all 16 entries in use faults StackOverflow and a pop with none faults StackUnderflow, with the PC as
info (R77, R79, R114; the spec's own choice D8). An SP of 17 to 255, which no run reaches, stops both by name (log entry
9, the model's choice). -/
def Obligations.StackBoundsFault : Prop :=
  ∀ (nnn : Addr) (s : State),
    (s.sp.toNat = 16 → ∃ t, exec (.call nnn) s = .next t ∧ FaultTaken .stackOverflow s.pc.toNat s t) ∧
    (s.sp.toNat = 0 → ∃ t, exec .ret s = .next t ∧ FaultTaken .stackUnderflow s.pc.toNat s t) ∧
    (16 < s.sp.toNat → exec (.call nnn) s = .fault (.stackPointerInvalid s.sp) ∧
      exec .ret s = .fault (.stackPointerInvalid s.sp))

/-- A CALL and the RET that ends its subroutine bring control to the word after the CALL with SP as before, whatever
the subroutine did to the rest of the state (R77, R79; the spec's own choice D7). -/
def Obligations.ReturnGoesToTheWordAfterTheCall : Prop :=
  ∀ (nnn : Addr) (s t u : State), s.sp.toNat < 16 → exec (.call nnn) s = .next t →
    u.sp = t.sp → u.stack = t.stack →
    ∃ r, exec .ret u = .next r ∧ r.pc = s.pc + 2 ∧ r.sp = s.sp

/-- R80 and R81: 3xkk skips one word when Vx equals kk, 4xkk when it differs. -/
def Obligations.ImmediateSkips : Prop :=
  (∀ w : Word,
    (fieldFamily w = 3 → decode w = .ok (.seImm (fieldX w) (fieldKk w))) ∧
    (fieldFamily w = 4 → decode w = .ok (.sneImm (fieldX w) (fieldKk w)))) ∧
  ∀ (x : Nibble) (kk : Byte) (s : State),
    (∃ t, exec (.seImm x kk) s = .next t ∧
      t.pc = s.pc + (if s.getV x = kk then 4 else 2) ∧ Quiet t ∧ Unchanged {} s t) ∧
    (∃ t, exec (.sneImm x kk) s = .next t ∧
      t.pc = s.pc + (if s.getV x = kk then 2 else 4) ∧ Quiet t ∧ Unchanged {} s t)

/-- R82 and R83: 5xy0 skips one word when Vx equals Vy, 9xy0 when they differ; with a low nibble other than 0 both
families are unrecognized. -/
def Obligations.RegisterSkips : Prop :=
  (∀ w : Word,
    (fieldFamily w = 5 → fieldN w = 0 → decode w = .ok (.seReg (fieldX w) (fieldY w))) ∧
    (fieldFamily w = 9 → fieldN w = 0 → decode w = .ok (.sneReg (fieldX w) (fieldY w))) ∧
    (fieldFamily w = 5 ∨ fieldFamily w = 9 → fieldN w ≠ 0 → ∀ i, decode w ≠ .ok i)) ∧
  ∀ (x y : Nibble) (s : State),
    (∃ t, exec (.seReg x y) s = .next t ∧
      t.pc = s.pc + (if s.getV x = s.getV y then 4 else 2) ∧ Quiet t ∧ Unchanged {} s t) ∧
    (∃ t, exec (.sneReg x y) s = .next t ∧
      t.pc = s.pc + (if s.getV x = s.getV y then 2 else 4) ∧ Quiet t ∧ Unchanged {} s t)

/-- Bnnn goes to nnn + V0, unmasked; a target above 0xFFE faults at the next fetch (R84; that nothing is checked here is
the spec's own choice D5, that an odd target is fetched D6). -/
def Obligations.JpV0AddsV0 : Prop :=
  (∀ w : Word, fieldFamily w = 0xB → decode w = .ok (.jpV0 (fieldNnn w))) ∧
  ∀ (nnn : Addr) (s : State), ∃ t, exec (.jpV0 nnn) s = .next t ∧
    t.pc.toNat = nnn.toNat + (s.getV 0).toNat ∧ Quiet t ∧ Unchanged {} s t ∧
    (s.fault = none → 0xFFE < nnn.toNat + (s.getV 0).toNat →
      ∃ u, step t = .next u ∧ FaultTaken .pcOutOfRange (nnn.toNat + (s.getV 0).toNat) t u)

/-! ## Register loads and the ALU -/

/-- R85: 6xkk loads kk. -/
def Obligations.LdImmLoadsTheByte : Prop :=
  (∀ w : Word, fieldFamily w = 6 → decode w = .ok (.ldImm (fieldX w) (fieldKk w))) ∧
  ∀ (x : Nibble) (kk : Byte) (s : State), ∃ t, exec (.ldImm x kk) s = .next t ∧
    t.getV x = kk ∧ t.pc = s.pc + 2 ∧ Quiet t ∧ Unchanged { regs := [x] } s t

/-- R86: 7xkk adds kk mod 256 and writes no flag. -/
def Obligations.AddImmWrapsWithoutFlag : Prop :=
  (∀ w : Word, fieldFamily w = 7 → decode w = .ok (.addImm (fieldX w) (fieldKk w))) ∧
  ∀ (x : Nibble) (kk : Byte) (s : State), ∃ t, exec (.addImm x kk) s = .next t ∧
    (t.getV x).toNat = ((s.getV x).toNat + kk.toNat) % 256 ∧ t.pc = s.pc + 2 ∧ Quiet t ∧
    Unchanged { regs := [x] } s t

/-- R87: 8xy0 copies Vy to Vx. -/
def Obligations.LdRegCopies : Prop :=
  (∀ w : Word, fieldFamily w = 8 → fieldN w = 0 → decode w = .ok (.ldReg (fieldX w) (fieldY w))) ∧
  ∀ (x y : Nibble) (s : State), ∃ t, exec (.ldReg x y) s = .next t ∧
    t.getV x = s.getV y ∧ t.pc = s.pc + 2 ∧ Quiet t ∧ Unchanged { regs := [x] } s t

/-- OR, AND and XOR write the bitwise result to Vx; under Q.logic_vf_reset VF is 0 afterwards, x = F included, and
otherwise VF is written only as Vx (R88 to R91; the toggle is the spec's own choice D10, flag last D9). -/
def Obligations.LogicResultsAndVf : Prop :=
  (∀ w : Word, fieldFamily w = 8 →
    (fieldN w = 1 → decode w = .ok (.orReg (fieldX w) (fieldY w))) ∧
    (fieldN w = 2 → decode w = .ok (.andReg (fieldX w) (fieldY w))) ∧
    (fieldN w = 3 → decode w = .ok (.xorReg (fieldX w) (fieldY w)))) ∧
  ∀ (x y : Nibble) (s : State),
    LogicCompletes (.orReg x y) x (s.getV x ||| s.getV y) s ∧
    LogicCompletes (.andReg x y) x (s.getV x &&& s.getV y) s ∧
    LogicCompletes (.xorReg x y) x (s.getV x ^^^ s.getV y) s

/-- 8xy4: the sum mod 256 in Vx and the carry in VF, which wins when x = F (R88, R92; flag last is the spec's own choice
D9). -/
def Obligations.AddRegSumAndCarry : Prop :=
  (∀ w : Word, fieldFamily w = 8 → fieldN w = 4 → decode w = .ok (.addReg (fieldX w) (fieldY w))) ∧
  ∀ (x y : Nibble) (s : State), ∃ t, exec (.addReg x y) s = .next t ∧
    (x ≠ vf → (t.getV x).toNat = ((s.getV x).toNat + (s.getV y).toNat) % 256) ∧
    t.getV vf = (if 255 < (s.getV x).toNat + (s.getV y).toNat then 1 else 0) ∧
    t.pc = s.pc + 2 ∧ Quiet t ∧ Unchanged { regs := [x, vf] } s t

/-- 8xy5 and 8xy7: the difference mod 256 in Vx and not-borrow in VF, which wins when x = F (R88, R93, R96; flag last is
the spec's own choice D9). -/
def Obligations.SubtractionsAndNotBorrow : Prop :=
  (∀ w : Word, fieldFamily w = 8 →
    (fieldN w = 5 → decode w = .ok (.sub (fieldX w) (fieldY w))) ∧
    (fieldN w = 7 → decode w = .ok (.subn (fieldX w) (fieldY w)))) ∧
  ∀ (x y : Nibble) (s : State),
    (∃ t, exec (.sub x y) s = .next t ∧
      (x ≠ vf → (t.getV x).toNat = ((s.getV x).toNat + 256 - (s.getV y).toNat) % 256) ∧
      t.getV vf = (if (s.getV y).toNat ≤ (s.getV x).toNat then 1 else 0) ∧
      t.pc = s.pc + 2 ∧ Quiet t ∧ Unchanged { regs := [x, vf] } s t) ∧
    (∃ t, exec (.subn x y) s = .next t ∧
      (x ≠ vf → (t.getV x).toNat = ((s.getV y).toNat + 256 - (s.getV x).toNat) % 256) ∧
      t.getV vf = (if (s.getV x).toNat ≤ (s.getV y).toNat then 1 else 0) ∧
      t.pc = s.pc + 2 ∧ Quiet t ∧ Unchanged { regs := [x, vf] } s t)

/-- 8xy6 and 8xyE: the source, Vx under Q.shift_vx and else Vy, is shifted by one into Vx and the bit shifted out goes
to VF, which wins when x = F (R88, R94, R95, R97; the flag is the source's bit by conflict C2, flag last is the spec's
own choice D9). -/
def Obligations.ShiftsAndTheBitShiftedOut : Prop :=
  (∀ w : Word, fieldFamily w = 8 →
    (fieldN w = 6 → decode w = .ok (.shr (fieldX w) (fieldY w))) ∧
    (fieldN w = 0xE → decode w = .ok (.shl (fieldX w) (fieldY w)))) ∧
  ∀ (x y : Nibble) (s : State) (src : Byte),
    src = (if s.quirks.shiftVx = true then s.getV x else s.getV y) →
    (∃ t, exec (.shr x y) s = .next t ∧
      (x ≠ vf → (t.getV x).toNat = src.toNat / 2) ∧ (t.getV vf).toNat = src.toNat % 2 ∧
      t.pc = s.pc + 2 ∧ Quiet t ∧ Unchanged { regs := [x, vf] } s t) ∧
    (∃ t, exec (.shl x y) s = .next t ∧
      (x ≠ vf → (t.getV x).toNat = 2 * src.toNat % 256) ∧ (t.getV vf).toNat = src.toNat / 128 ∧
      t.pc = s.pc + 2 ∧ Quiet t ∧ Unchanged { regs := [x, vf] } s t)

/-- Cxkk: Vx takes the drawn byte AND kk, so no bit that kk lacks, and one draw is taken whatever kk is (R98). The byte
is a free value of the model (log entry 6): the statement holds for every value of it. -/
def Obligations.RndMasksTheDrawnByte : Prop :=
  (∀ w : Word, fieldFamily w = 0xC → decode w = .ok (.rnd (fieldX w) (fieldKk w))) ∧
  ∀ (x : Nibble) (kk : Byte) (s : State), ∃ t, exec (.rnd x kk) s = .next t ∧
    t.getV x = Config.randomByte s.draws &&& kk ∧ (kk = 0 → t.getV x = 0) ∧ t.getV x &&& ~~~kk = 0 ∧
    t.draws = s.draws + 1 ∧ t.pc = s.pc + 2 ∧ Quiet t ∧ Unchanged { regs := [x], draws := true } s t

/-! ## Index and memory -/

/-- R99: Annn sets I to nnn. -/
def Obligations.LdISetsTheIndex : Prop :=
  (∀ w : Word, fieldFamily w = 0xA → decode w = .ok (.ldI (fieldNnn w))) ∧
  ∀ (nnn : Addr) (s : State), ∃ t, exec (.ldI nnn) s = .next t ∧
    t.i.toNat = nnn.toNat ∧ t.pc = s.pc + 2 ∧ Quiet t ∧ Unchanged { index := true } s t

/-- Fx1E: I takes I + Vx mod 65536 and VF, last, whether the new I exceeds 0xFFF (R100; the width of I is the spec's own
choice D12, flag last D9). -/
def Obligations.AddISumAndRangeFlag : Prop :=
  (∀ w : Word, fieldFamily w = 0xF → fieldKk w = 0x1E → decode w = .ok (.addI (fieldX w))) ∧
  ∀ (x : Nibble) (s : State), ∃ t, exec (.addI x) s = .next t ∧
    t.i.toNat = (s.i.toNat + (s.getV x).toNat) % 65536 ∧
    t.getV vf = (if 0xFFF < (s.i.toNat + (s.getV x).toNat) % 65536 then 1 else 0) ∧
    t.pc = s.pc + 2 ∧ Quiet t ∧ Unchanged { regs := [vf], index := true } s t

/-- Fx29: I takes 5 times Vx, unmasked (R101; that values above 15 are not masked is the spec's own choice D32). -/
def Obligations.LdFPointsAtTheGlyph : Prop :=
  (∀ w : Word, fieldFamily w = 0xF → fieldKk w = 0x29 → decode w = .ok (.ldF (fieldX w))) ∧
  ∀ (x : Nibble) (s : State), ∃ t, exec (.ldF x) s = .next t ∧
    t.i.toNat = 5 * (s.getV x).toNat ∧ t.pc = s.pc + 2 ∧ Quiet t ∧ Unchanged { index := true } s t

/-- Fx33: the hundreds, tens and ones of Vx at I, I + 1 and I + 2, I unchanged, when those addresses exist and may be
written (R40, R102; the address checks are the spec's own choices D13 and D14). -/
def Obligations.LdBStoresTheDigits : Prop :=
  (∀ w : Word, fieldFamily w = 0xF → fieldKk w = 0x33 → decode w = .ok (.ldB (fieldX w))) ∧
  ∀ (x : Nibble) (s : State), s.i.toNat + 2 ≤ 0xFFF → (s.platform.lowWrite = .fault → 0x200 ≤ s.i.toNat) →
    ∃ t, exec (.ldB x) s = .next t ∧
      (t.readByte s.i.toNat).toNat = (s.getV x).toNat / 100 ∧
      (t.readByte (s.i.toNat + 1)).toNat = (s.getV x).toNat / 10 % 10 ∧
      (t.readByte (s.i.toNat + 2)).toNat = (s.getV x).toNat % 10 ∧
      t.pc = s.pc + 2 ∧ Quiet t ∧ Unchanged { memFrom := s.i.toNat, memLen := 3 } s t

/-- Fx55: V0 to Vx at I to I + x, then I advanced by x + 1 unless Q.ls_keep_i, when those addresses exist and may be
written (R40, R103; the spec's own choices D12, D13 and D14). -/
def Obligations.LdMemVStoresTheRegisters : Prop :=
  (∀ w : Word, fieldFamily w = 0xF → fieldKk w = 0x55 → decode w = .ok (.ldMemV (fieldX w))) ∧
  ∀ (x : Nibble) (s : State), s.i.toNat + x.toNat ≤ 0xFFF → (s.platform.lowWrite = .fault → 0x200 ≤ s.i.toNat) →
    ∃ t, exec (.ldMemV x) s = .next t ∧
      (∀ k : Nibble, k.toNat ≤ x.toNat → t.readByte (s.i.toNat + k.toNat) = s.getV k) ∧
      t.i.toNat = (if s.quirks.lsKeepI = true then s.i.toNat else s.i.toNat + x.toNat + 1) ∧
      t.pc = s.pc + 2 ∧ Quiet t ∧
      Unchanged { index := true, memFrom := s.i.toNat, memLen := x.toNat + 1 } s t

/-- Fx65: V0 to Vx from I to I + x, then I advanced by x + 1 unless Q.ls_keep_i, when those addresses exist; a read
below 0x200 is always allowed (R40, R104; the spec's own choices D12 and D13). -/
def Obligations.LdVMemLoadsTheRegisters : Prop :=
  (∀ w : Word, fieldFamily w = 0xF → fieldKk w = 0x65 → decode w = .ok (.ldVMem (fieldX w))) ∧
  ∀ (x : Nibble) (s : State), s.i.toNat + x.toNat ≤ 0xFFF →
    ∃ t, exec (.ldVMem x) s = .next t ∧
      (∀ k : Nibble, k.toNat ≤ x.toNat → t.getV k = s.readByte (s.i.toNat + k.toNat)) ∧
      t.i.toNat = (if s.quirks.lsKeepI = true then s.i.toNat else s.i.toNat + x.toNat + 1) ∧
      t.pc = s.pc + 2 ∧ Quiet t ∧ Unchanged { regs := regsUpTo x, index := true } s t

/-- A data access that would reach above 0xFFF faults MemOutOfRange with the lowest such address; a data write below
0x200 under LOW_WRITE = fault faults LowWriteProtected with the lowest such address; nothing is written (R40, R114; the
spec's own choices D3, D13 and D14). -/
def Obligations.DataAddressFaults : Prop :=
  ∀ (x y n : Nibble) (s : State),
    (0xFFF < s.i.toNat + 2 →
      ∃ t, exec (.ldB x) s = .next t ∧ FaultTaken .memOutOfRange (max s.i.toNat 0x1000) s t) ∧
    (0xFFF < s.i.toNat + x.toNat →
      (∃ t, exec (.ldMemV x) s = .next t ∧ FaultTaken .memOutOfRange (max s.i.toNat 0x1000) s t) ∧
      (∃ t, exec (.ldVMem x) s = .next t ∧ FaultTaken .memOutOfRange (max s.i.toNat 0x1000) s t)) ∧
    (0 < n.toNat → 0xFFF < s.i.toNat + n.toNat - 1 →
      ∃ t, exec (.drw x y n) s = .next t ∧ FaultTaken .memOutOfRange (max s.i.toNat 0x1000) s t) ∧
    (s.platform.lowWrite = .fault → s.i.toNat < 0x200 →
      (∃ t, exec (.ldB x) s = .next t ∧ FaultTaken .lowWriteProtected s.i.toNat s t) ∧
      (∃ t, exec (.ldMemV x) s = .next t ∧ FaultTaken .lowWriteProtected s.i.toNat s t))

/-- A byte Fx55 stores is the byte the next fetch of its address reads: two stored registers make the next word (R52,
R146, the spec's derivation). -/
def Obligations.StoredBytesAreFetched : Prop :=
  ∀ (x k l : Nibble) (s t : State), exec (.ldMemV x) s = .next t →
    s.i.toNat + x.toNat ≤ 0xFFF → (s.platform.lowWrite = .fault → 0x200 ≤ s.i.toNat) →
    l.toNat = k.toNat + 1 → l.toNat ≤ x.toNat →
    (t.setPc (s.i + BitVec.ofNat 16 k.toNat)).fetchWord.toNat = (s.getV k).toNat * 256 + (s.getV l).toNat

/-- On a machine constructed with any font, Fx29 for a digit and then Fx65 of five registers loads that digit's glyph,
top row first (R35, R101, R104; the source's round-trip property, L1-7). -/
def Obligations.GlyphRoundTrip : Prop :=
  ∀ (font : Font) (s t u : State) (x g : Nibble),
    exec (.ldF x) ((construct font s).setV x (byteOfKey g)) = .next t → exec (.ldVMem 4) t = .next u →
    ∀ (k : Nibble) (hk : k.toNat ≤ 4), u.getV k = font[5 * g.toNat + k.toNat]'(by have := g.isLt; omega)

/-! ## Display, input and timers -/

/-- R105: CLS makes exactly one clear request and changes nothing but PC. -/
def Obligations.ClsRequestsOneClear : Prop :=
  decode 0x00E0 = .ok .cls ∧
  ∀ s : State, ∃ t, exec .cls s = .next t ∧ t.outcome = some .advanced ∧ t.requests = [.clearScreen] ∧
    t.pc = s.pc + 2 ∧ Unchanged {} s t

/-- Dxyn: one draw request with the n bytes at I, Vx, Vy, n and the wrap toggle, and the host's answer in VF, when the
bytes exist (R106, R120; that the sprite lies at I is conflict C6). The answer is a free value of the model (log entry
7), 0 when no byte has a bit set: the statement holds for every value of it. -/
def Obligations.DrwRequestsTheSprite : Prop :=
  (∀ w : Word, fieldFamily w = 0xD → decode w = .ok (.drw (fieldX w) (fieldY w) (fieldN w))) ∧
  ∀ (x y n : Nibble) (s : State), (n = 0 ∨ s.i.toNat + n.toNat - 1 ≤ 0xFFF) →
    ∃ (t : State) (bytes : List Byte) (c : Bool), exec (.drw x y n) s = .next t ∧
      bytes.length = n.toNat ∧ (∀ k, k < n.toNat → bytes[k]? = some (s.readByte (s.i.toNat + k))) ∧
      t.requests = [.drawSprite bytes (s.getV x) (s.getV y) n s.quirks.wrap] ∧ t.outcome = some .advanced ∧
      t.getV vf = (if c then 1 else 0) ∧ ((∀ b ∈ bytes, b = 0) → c = false) ∧
      ((∃ b ∈ bytes, b ≠ 0) → c = Config.collision s.draws) ∧
      t.draws = s.draws + 1 ∧ t.pc = s.pc + 2 ∧ Unchanged { regs := [vf], draws := true } s t

/-- Ex9E skips one word when the key Vx names is down, ExA1 when it is up (R107, R108). -/
def Obligations.KeySkips : Prop :=
  (∀ w : Word, fieldFamily w = 0xE →
    (fieldKk w = 0x9E → decode w = .ok (.skp (fieldX w))) ∧ (fieldKk w = 0xA1 → decode w = .ok (.sknp (fieldX w)))) ∧
  ∀ (x : Nibble) (s : State) (h : (s.getV x).toNat < 16),
    (∃ t, exec (.skp x) s = .next t ∧
      t.pc = s.pc + (if s.keyStates[(s.getV x).toNat] = true then 4 else 2) ∧ Quiet t ∧ Unchanged {} s t) ∧
    (∃ t, exec (.sknp x) s = .next t ∧
      t.pc = s.pc + (if s.keyStates[(s.getV x).toNat] = true then 2 else 4) ∧ Quiet t ∧ Unchanged {} s t)

/-- A key number above 15 faults KeyOutOfRange with the number as info (R107, R108, R114; the spec's own choice D15). -/
def Obligations.KeyNumberAboveFifteenFaults : Prop :=
  ∀ (x : Nibble) (s : State), 15 < (s.getV x).toNat →
    (∃ t, exec (.skp x) s = .next t ∧ FaultTaken .keyOutOfRange (s.getV x).toNat s t) ∧
    (∃ t, exec (.sknp x) s = .next t ∧ FaultTaken .keyOutOfRange (s.getV x).toNat s t)

/-- Fx07 loads DT and leaves it as it is (R109). -/
def Obligations.LdVDtReadsTheTimer : Prop :=
  (∀ w : Word, fieldFamily w = 0xF → fieldKk w = 0x07 → decode w = .ok (.ldVDt (fieldX w))) ∧
  ∀ (x : Nibble) (s : State), ∃ t, exec (.ldVDt x) s = .next t ∧
    t.getV x = s.dt ∧ t.pc = s.pc + 2 ∧ Quiet t ∧ Unchanged { regs := [x] } s t

/-- Fx0A with a key recorded loads its number and leaves it recorded; with none it returns AwaitingInput and changes
nothing, PC included (R110; that lastKey is not cleared is the spec's own choice D16). -/
def Obligations.LdVKTakesAKeyOrWaits : Prop :=
  (∀ w : Word, fieldFamily w = 0xF → fieldKk w = 0x0A → decode w = .ok (.ldVK (fieldX w))) ∧
  ∀ (x : Nibble) (s : State),
    (∀ k, s.lastKey = some k → ∃ t, exec (.ldVK x) s = .next t ∧
      (t.getV x).toNat = k.toNat ∧ t.pc = s.pc + 2 ∧ Quiet t ∧ Unchanged { regs := [x] } s t) ∧
    (s.lastKey = none → exec (.ldVK x) s = .next { s with outcome := some .awaitingInput, requests := [] })

/-- R111 and R112: Fx15 sets DT, Fx18 sets ST. -/
def Obligations.TimerLoads : Prop :=
  (∀ w : Word, fieldFamily w = 0xF →
    (fieldKk w = 0x15 → decode w = .ok (.ldDtV (fieldX w))) ∧ (fieldKk w = 0x18 → decode w = .ok (.ldStV (fieldX w)))) ∧
  ∀ (x : Nibble) (s : State),
    (∃ t, exec (.ldDtV x) s = .next t ∧ t.dt = s.getV x ∧ t.pc = s.pc + 2 ∧ Quiet t ∧ Unchanged { dt := true } s t) ∧
    (∃ t, exec (.ldStV x) s = .next t ∧ t.st = s.getV x ∧ t.pc = s.pc + 2 ∧ Quiet t ∧ Unchanged { st := true } s t)

/-! ## The host's transactions and the clock -/

/-- Any number of ticks takes that much off each timer, stopping at 0, and changes nothing else (R117, R148; that a
timer at 0 stays there is the spec's own choice D19). -/
def Obligations.TicksCountDown : Prop :=
  ∀ (n : Nat) (s : State), ∃ t, runSchedule (List.replicate n .tick) s = .next t ∧
    t.dt.toNat = s.dt.toNat - n ∧ t.st.toNat = s.st.toNat - n ∧ (t.setDt s.dt).setSt s.st = s

/-- setKey writes one key state and nothing else; setLastKey records a key only when none is recorded, and clearLastKey
writes NoKey, neither writing anything else (R125, R126; that a setLastKey out of turn is refused is the model's choice,
log entry 14). -/
def Obligations.KeyTransactions : Prop :=
  ∀ (k : Nibble) (s : State),
    (∀ down, ∃ t, transact (.setKey k down) s = .next t ∧
      t.keyDown k = down ∧ (∀ j, j ≠ k → t.keyDown j = s.keyDown j) ∧
      ({ t with keyStates := s.keyStates } : State) = s) ∧
    (s.lastKey = none → transact (.setLastKey k) s = .next { s with lastKey := some k }) ∧
    (∀ held, s.lastKey = some held → transact (.setLastKey k) s = .refused (.lastKeyHeld held)) ∧
    transact .clearLastKey s = .next { s with lastKey := none }

/-- loadROM copies the bytes to 0x200 and up and writes nothing else; a program above 3584 bytes is refused (R139; the
refusal is the spec's own choice D30). -/
def Obligations.LoadRomCopiesTheProgram : Prop :=
  ∀ (bytes : List Byte) (s : State),
    (bytes.length ≤ 3584 → ∃ t, transact (.loadRom bytes) s = .next t ∧
      (∀ k, (h : k < bytes.length) → t.readByte (0x200 + k) = bytes[k]) ∧
      (∀ a, ¬ (0x200 ≤ a ∧ a < 0x200 + bytes.length) → t.readByte a = s.readByte a) ∧ t.setMem s.mem = s) ∧
    (3584 < bytes.length → transact (.loadRom bytes) s = .refused (.romTooLong bytes.length))

/-- R138: loadTypography writes the 80 bytes of the table at 0x000 and changes nothing else. -/
def Obligations.LoadTypographyWritesTheFont : Prop :=
  ∀ (font : Font) (s : State), ∃ t, transact (.loadTypography font) s = .next t ∧
    (∀ a, t.readByte a = if h : a < 80 then font[a] else s.readByte a) ∧ t.setMem s.mem = s

/-- construct gives the reset table of R36 whatever the old state was, a recorded fault included, for every font (R36,
R137, R140; PC = 0x200 and lastKey = NoKey are the spec's own choices D17 and D18); and the model's reset state is the
one constructed with its own font (log entry 5). -/
def Obligations.ConstructGivesTheResetTable : Prop :=
  (∀ (font : Font) (s : State), ∃ t, transact (.construct font) s = .next t ∧
    (∀ a, t.readByte a = if h : a < 80 then font[a] else 0) ∧ (∀ x, t.getV x = 0) ∧ t.i = 0 ∧ t.pc = 0x200 ∧
    t.sp = 0 ∧ (∀ (j : Nat) (h : j < 16), t.stack[j] = 0) ∧ t.dt = 0 ∧ t.st = 0 ∧ (∀ k, t.keyDown k = false) ∧
    t.lastKey = none ∧ t.fault = none) ∧
  construct Config.font State.reset = State.reset

/-! ## The ends of a run and the display -/

/-- From a jump to itself, any number of steps leaves the whole core state as it is (R135). -/
def Obligations.SelfLoopChangesNothing : Prop :=
  ∀ (n : Nat) (s : State), SelfLoop s →
    ∃ t, runSchedule (List.replicate n (.step s.quirks)) s = .next t ∧ t.core = s.core ∧ SelfLoop t

/-- While no key is recorded, any number of steps at an Fx0A leaves the whole core state as it is; once one is
recorded, the next step takes it (R110, R132; the source's property of Fx0A). -/
def Obligations.WaitingEndsWithTheKey : Prop :=
  ∀ (n : Nat) (s : State) (x k : Nibble), s.fault = none → s.pcInWindow = true → s.lastKey = none →
    decode s.fetchWord = .ok (.ldVK x) →
    (∃ t, runSchedule (List.replicate n (.step s.quirks)) s = .next t ∧ t.core = s.core) ∧
    ∃ u, runSchedule (List.replicate n (.step s.quirks) ++ [.setLastKey k, .step s.quirks]) s = .next u ∧
      u.getV x = byteOfKey k ∧ u.pc = s.pc + 2 ∧ u.lastKey = some k

/-- The reference display composites by XOR and answers by the contract, for every grid, sprite, position and wrap
setting (R120, R122; the display is the spec's optional one, its layout log entry 12). A pixel is flipped as often as the
sprite covers it, and the answer is 1 exactly when the sprite covers a pixel that was set, or covers one twice, so that
its own pixel is unset again. For a sprite that covers no pixel twice (one that is clipped, or that wraps on a grid no
smaller than itself) the pixels left are the XOR of the old ones and the sprite's, and the answer is 1 exactly when some
pixel that was set has become unset. -/
def Obligations.ReferenceDisplayMeetsTheContract : Prop :=
  ∀ (d d' : Display) (bytes : List Byte) (x y : Byte) (wrap c : Bool) (cover : List (Nat × Nat)),
    cover = d.spritePixels bytes x y wrap → d.draw bytes x y wrap = (d', c) →
    d'.width = d.width ∧ d'.height = d.height ∧
    (∀ p, p ∈ d'.lit ↔ if cover.count p % 2 = 0 then p ∈ d.lit else p ∉ d.lit) ∧
    (c = true ↔ ∃ p ∈ cover, p ∈ d.lit ∨ 2 ≤ cover.count p) ∧
    (wrap = false ∨ 8 ≤ d.width ∧ bytes.length ≤ d.height →
      (∀ p, p ∈ d'.lit ↔ ¬ (p ∈ d.lit ↔ p ∈ cover)) ∧
      (c = true ↔ ∃ p ∈ d.lit, p ∉ d'.lit))
end

