-- ==== Sys2Proof/Laws/Decode.lean ====
section
/-! SUPPORT. The fields of an encoded word and its bits under a table row's mask: what the decoder and the opcode table
read from each format (R55 to R57). -/

namespace Sys2Proof

/-! ### The bits of each format -/

theorem getLsbD_encodeNnn (f : Nibble) (nnn : Addr) (k : Nat) :
    (encodeNnn f nnn).getLsbD k = if k < 12 then nnn.getLsbD k else f.getLsbD (k - 12) := by
  show (f ++ nnn).getLsbD k = _
  exact BitVec.getLsbD_append

theorem getLsbD_encodeXkk (f x : Nibble) (kk : Byte) (k : Nat) :
    (encodeXkk f x kk).getLsbD k =
      if k < 8 then kk.getLsbD k else if k - 8 < 4 then x.getLsbD (k - 8) else f.getLsbD (k - 8 - 4) := by
  show (f ++ x ++ kk).getLsbD k = _
  simp only [BitVec.getLsbD_append]

theorem getLsbD_encodeXyn (f x y n : Nibble) (k : Nat) :
    (encodeXyn f x y n).getLsbD k =
      if k < 4 then n.getLsbD k
      else if k - 4 < 4 then y.getLsbD (k - 4)
      else if k - 4 - 4 < 4 then x.getLsbD (k - 4 - 4) else f.getLsbD (k - 4 - 4 - 4) := by
  show (f ++ x ++ y ++ n).getLsbD k = _
  simp only [BitVec.getLsbD_append]

/-! ### The fields of each format -/

@[simp] theorem fieldFamily_encodeNnn (f : Nibble) (nnn : Addr) : fieldFamily (encodeNnn f nnn) = f := by
  apply BitVec.eq_of_getLsbD_eq
  intro i hi
  simp only [fieldFamily, BitVec.getLsbD_extractLsb', getLsbD_encodeNnn]
  interval_cases i <;> simp

@[simp] theorem fieldNnn_encodeNnn (f : Nibble) (nnn : Addr) : fieldNnn (encodeNnn f nnn) = nnn := by
  apply BitVec.eq_of_getLsbD_eq
  intro i hi
  simp only [fieldNnn, BitVec.getLsbD_extractLsb', getLsbD_encodeNnn]
  interval_cases i <;> simp

@[simp] theorem fieldFamily_encodeXkk (f x : Nibble) (kk : Byte) : fieldFamily (encodeXkk f x kk) = f := by
  apply BitVec.eq_of_getLsbD_eq
  intro i hi
  simp only [fieldFamily, BitVec.getLsbD_extractLsb', getLsbD_encodeXkk]
  interval_cases i <;> simp

@[simp] theorem fieldX_encodeXkk (f x : Nibble) (kk : Byte) : fieldX (encodeXkk f x kk) = x := by
  apply BitVec.eq_of_getLsbD_eq
  intro i hi
  simp only [fieldX, BitVec.getLsbD_extractLsb', getLsbD_encodeXkk]
  interval_cases i <;> simp

@[simp] theorem fieldKk_encodeXkk (f x : Nibble) (kk : Byte) : fieldKk (encodeXkk f x kk) = kk := by
  apply BitVec.eq_of_getLsbD_eq
  intro i hi
  simp only [fieldKk, BitVec.getLsbD_extractLsb', getLsbD_encodeXkk]
  interval_cases i <;> simp

@[simp] theorem fieldFamily_encodeXyn (f x y n : Nibble) : fieldFamily (encodeXyn f x y n) = f := by
  apply BitVec.eq_of_getLsbD_eq
  intro i hi
  simp only [fieldFamily, BitVec.getLsbD_extractLsb', getLsbD_encodeXyn]
  interval_cases i <;> simp

@[simp] theorem fieldX_encodeXyn (f x y n : Nibble) : fieldX (encodeXyn f x y n) = x := by
  apply BitVec.eq_of_getLsbD_eq
  intro i hi
  simp only [fieldX, BitVec.getLsbD_extractLsb', getLsbD_encodeXyn]
  interval_cases i <;> simp

@[simp] theorem fieldY_encodeXyn (f x y n : Nibble) : fieldY (encodeXyn f x y n) = y := by
  apply BitVec.eq_of_getLsbD_eq
  intro i hi
  simp only [fieldY, BitVec.getLsbD_extractLsb', getLsbD_encodeXyn]
  interval_cases i <;> simp

@[simp] theorem fieldN_encodeXyn (f x y n : Nibble) : fieldN (encodeXyn f x y n) = n := by
  apply BitVec.eq_of_getLsbD_eq
  intro i hi
  simp only [fieldN, BitVec.getLsbD_extractLsb', getLsbD_encodeXyn]
  interval_cases i <;> simp

/-! ### Under the masks of the opcode table -/

theorem nibble_and_ones (f : Nibble) : f &&& 15#4 = f := by
  simpa using BitVec.and_allOnes (x := f)

theorem byte_and_ones (f : Byte) : f &&& 255#8 = f := by
  simpa using BitVec.and_allOnes (x := f)

theorem encodeNnn_mask (f : Nibble) (nnn : Addr) : encodeNnn f nnn &&& 0xF000 = encodeNnn f 0 := by
  have h : (0xF000 : Word) = 0xF#4 ++ 0#12 := by decide
  unfold encodeNnn
  rw [h, BitVec.and_append, nibble_and_ones]
  simp

theorem encodeXkk_mask_family (f x : Nibble) (kk : Byte) : encodeXkk f x kk &&& 0xF000 = encodeXkk f 0 0 := by
  have h : (0xF000 : Word) = 0xF#4 ++ 0#4 ++ 0#8 := by decide
  unfold encodeXkk
  rw [h, BitVec.and_append, BitVec.and_append, nibble_and_ones]
  simp

theorem encodeXkk_mask (f x : Nibble) (kk : Byte) : encodeXkk f x kk &&& 0xF0FF = encodeXkk f 0 kk := by
  have h : (0xF0FF : Word) = 0xF#4 ++ 0#4 ++ 0xFF#8 := by decide
  unfold encodeXkk
  rw [h, BitVec.and_append, BitVec.and_append, nibble_and_ones, byte_and_ones]
  simp

theorem encodeXyn_mask_family (f x y n : Nibble) : encodeXyn f x y n &&& 0xF000 = encodeXyn f 0 0 0 := by
  have h : (0xF000 : Word) = 0xF#4 ++ 0#4 ++ 0#4 ++ 0#4 := by decide
  unfold encodeXyn
  rw [h, BitVec.and_append, BitVec.and_append, BitVec.and_append, nibble_and_ones]
  simp

theorem encodeXyn_mask (f x y n : Nibble) : encodeXyn f x y n &&& 0xF00F = encodeXyn f 0 0 n := by
  have h : (0xF00F : Word) = 0xF#4 ++ 0#4 ++ 0#4 ++ 0xF#4 := by decide
  unfold encodeXyn
  rw [h, BitVec.and_append, BitVec.and_append, BitVec.and_append, nibble_and_ones, nibble_and_ones]
  simp

/-! ### A word is the encoding of its own fields -/

theorem encodeNnn_fields (w : Word) : encodeNnn (fieldFamily w) (fieldNnn w) = w := by
  apply BitVec.eq_of_getLsbD_eq
  intro i hi
  rw [getLsbD_encodeNnn]
  interval_cases i <;> simp [fieldFamily, fieldNnn]

theorem encodeXkk_fields (w : Word) : encodeXkk (fieldFamily w) (fieldX w) (fieldKk w) = w := by
  apply BitVec.eq_of_getLsbD_eq
  intro i hi
  rw [getLsbD_encodeXkk]
  interval_cases i <;> simp [fieldFamily, fieldX, fieldKk]

theorem encodeXyn_fields (w : Word) : encodeXyn (fieldFamily w) (fieldX w) (fieldY w) (fieldN w) = w := by
  apply BitVec.eq_of_getLsbD_eq
  intro i hi
  rw [getLsbD_encodeXyn]
  interval_cases i <;> simp [fieldFamily, fieldX, fieldY, fieldN]

/-! ### The decoder, family by family (R59 to R64) -/

/-- A word's family is one of the sixteen. -/
theorem family_cases (f : Nibble) :
    f = 0 ∨ f = 1 ∨ f = 2 ∨ f = 3 ∨ f = 4 ∨ f = 5 ∨ f = 6 ∨ f = 7 ∨ f = 8 ∨ f = 9 ∨ f = 0xA ∨ f = 0xB ∨ f = 0xC ∨
      f = 0xD ∨ f = 0xE ∨ f = 0xF := by
  revert f
  decide

theorem decode_family0 {w : Word} (h : fieldFamily w = 0x0) :
    decode w = if w = 0x00E0 then .ok .cls else if w = 0x00EE then .ok .ret else .error (.family0 w) := by
  unfold decode
  rw [h]
  rfl

theorem decode_family1 {w : Word} (h : fieldFamily w = 0x1) :
    decode w = .ok (.jp (fieldNnn w)) := by
  unfold decode
  rw [h]
  rfl

theorem decode_family2 {w : Word} (h : fieldFamily w = 0x2) :
    decode w = .ok (.call (fieldNnn w)) := by
  unfold decode
  rw [h]
  rfl

theorem decode_family3 {w : Word} (h : fieldFamily w = 0x3) :
    decode w = .ok (.seImm (fieldX w) (fieldKk w)) := by
  unfold decode
  rw [h]
  rfl

theorem decode_family4 {w : Word} (h : fieldFamily w = 0x4) :
    decode w = .ok (.sneImm (fieldX w) (fieldKk w)) := by
  unfold decode
  rw [h]
  rfl

theorem decode_family5 {w : Word} (h : fieldFamily w = 0x5) :
    decode w = if fieldN w = 0 then .ok (.seReg (fieldX w) (fieldY w)) else .error (.compareLowNibble w) := by
  unfold decode
  rw [h]
  rfl

theorem decode_family6 {w : Word} (h : fieldFamily w = 0x6) :
    decode w = .ok (.ldImm (fieldX w) (fieldKk w)) := by
  unfold decode
  rw [h]
  rfl

theorem decode_family7 {w : Word} (h : fieldFamily w = 0x7) :
    decode w = .ok (.addImm (fieldX w) (fieldKk w)) := by
  unfold decode
  rw [h]
  rfl

theorem decode_family8 {w : Word} (h : fieldFamily w = 0x8) :
    decode w = decodeAlu w := by
  unfold decode
  rw [h]
  rfl

theorem decode_family9 {w : Word} (h : fieldFamily w = 0x9) :
    decode w = if fieldN w = 0 then .ok (.sneReg (fieldX w) (fieldY w)) else .error (.compareLowNibble w) := by
  unfold decode
  rw [h]
  rfl

theorem decode_familyA {w : Word} (h : fieldFamily w = 0xA) :
    decode w = .ok (.ldI (fieldNnn w)) := by
  unfold decode
  rw [h]
  rfl

theorem decode_familyB {w : Word} (h : fieldFamily w = 0xB) :
    decode w = .ok (.jpV0 (fieldNnn w)) := by
  unfold decode
  rw [h]
  rfl

theorem decode_familyC {w : Word} (h : fieldFamily w = 0xC) :
    decode w = .ok (.rnd (fieldX w) (fieldKk w)) := by
  unfold decode
  rw [h]
  rfl

theorem decode_familyD {w : Word} (h : fieldFamily w = 0xD) :
    decode w = .ok (.drw (fieldX w) (fieldY w) (fieldN w)) := by
  unfold decode
  rw [h]
  rfl

theorem decode_familyE {w : Word} (h : fieldFamily w = 0xE) :
    decode w = if fieldKk w = 0x9E then .ok (.skp (fieldX w)) else
      if fieldKk w = 0xA1 then .ok (.sknp (fieldX w)) else .error (.keySubcode w) := by
  unfold decode
  rw [h]
  rfl

theorem decode_familyF {w : Word} (h : fieldFamily w = 0xF) :
    decode w = decodeMisc w := by
  unfold decode
  rw [h]
  rfl

/-! ### The two bytes of a word (R42) -/

/-- A word split into its bytes and put together again is the word. -/
@[simp] theorem wordOfBytes_high_low (w : Word) : wordOfBytes (highByte w) (lowByte w) = w := by
  apply BitVec.eq_of_getLsbD_eq
  intro i hi
  refine (BitVec.getLsbD_append (x := highByte w) (y := lowByte w)).trans ?_
  interval_cases i <;> simp [highByte, lowByte]

/-- Decoding the bytes of a word is decoding the word (R54). -/
theorem decodeBytes_word (w : Word) (rest : List Byte) :
    decodeBytes (highByte w :: lowByte w :: rest) = (decode w).map (·, rest) := by
  simp only [decodeBytes, wordOfBytes_high_low]
  cases decode w <;> rfl

end Sys2Proof
end

