-- ==== Sys2Proof/Laws/Display.lean ====
section
/-! SUPPORT. What drawing on the reference display does, said once: one pixel's toggle, and a draw as the toggles of the
sprite's pixels in their order (spec/60_exceptions.md R122). -/

namespace Sys2Proof.Machine

/-! ### One pixel -/

@[simp] theorem Display.toggle_width (d : Display) (p : Nat × Nat) : (d.toggle p).1.width = d.width := by
  unfold Display.toggle; split <;> rfl

@[simp] theorem Display.toggle_height (d : Display) (p : Nat × Nat) : (d.toggle p).1.height = d.height := by
  unfold Display.toggle; split <;> rfl

/-- A toggle flips its own pixel and no other. -/
theorem Display.mem_toggle (d : Display) (p q : Nat × Nat) :
    q ∈ (d.toggle p).1.lit ↔ if q = p then q ∉ d.lit else q ∈ d.lit := by
  by_cases hp : p ∈ d.lit <;> by_cases hq : q = p <;> simp_all [Display.toggle]

/-- A toggle answers whether its pixel was set. -/
@[simp] theorem Display.toggle_answer (d : Display) (p : Nat × Nat) : (d.toggle p).2 = true ↔ p ∈ d.lit := by
  by_cases hp : p ∈ d.lit <;> simp [Display.toggle, hp]

/-! ### A draw -/

/-- Toggle one pixel and gather the collision. -/
def Display.hit (dc : Display × Bool) (p : Nat × Nat) : Display × Bool := ((dc.1.toggle p).1, dc.2 || (dc.1.toggle p).2)

/-- Toggles keep the size of the grid. -/
theorem Display.foldl_hit_size (l : List (Nat × Nat)) (dc : Display × Bool) :
    (l.foldl Display.hit dc).1.width = dc.1.width ∧ (l.foldl Display.hit dc).1.height = dc.1.height := by
  induction l generalizing dc with
  | nil => exact ⟨rfl, rfl⟩
  | cons p l ih => simpa [Display.hit] using ih (Display.hit dc p)

/-- One set bit is plotted by a hit of its pixel, or not at all where it is clipped. -/
theorem Display.plot_eq (d : Display) (xc yc : Byte) (wrap : Bool) (r b : Nat) {dc : Display × Bool}
    (hw : dc.1.width = d.width) (hh : dc.1.height = d.height) :
    Display.plot wrap (xc.toNat % d.width + b, yc.toNat % d.height + r) dc =
      (d.pixelAt xc yc wrap r b).toList.foldl Display.hit dc := by
  simp only [Display.plot, Display.pixelAt, hw, hh]
  split <;> split <;> rfl

/-- One row is drawn as the hits of its pixels. -/
theorem Display.drawRow_eq (d : Display) (xc yc : Byte) (wrap : Bool) (r : Nat) (row : Byte) {dc : Display × Bool}
    (hw : dc.1.width = d.width) (hh : dc.1.height = d.height) :
    Display.drawRow wrap (xc.toNat % d.width) (yc.toNat % d.height + r) row dc =
      (d.rowPixels xc yc wrap r row).foldl Display.hit dc := by
  unfold Display.drawRow Display.rowPixels
  generalize List.range 8 = l
  induction l generalizing dc with
  | nil => rfl
  | cons b l ih =>
    cases hb : row.getLsbD (7 - b) with
    | false => simpa [hb] using ih hw hh
    | true =>
      have hs := Display.foldl_hit_size (d.pixelAt xc yc wrap r b).toList dc
      simp only [List.foldl_cons, hb, if_true, Display.plot_eq d xc yc wrap r b hw hh]
      rw [ih (hs.1.trans hw) (hs.2.trans hh)]
      cases hp : d.pixelAt xc yc wrap r b <;> simp [hb, hp]

/-- A sprite is drawn as the hits of its pixels, in their order. -/
theorem Display.draw_eq (d : Display) (bytes : List Byte) (xc yc : Byte) (wrap : Bool) :
    d.draw bytes xc yc wrap = (d.spritePixels bytes xc yc wrap).foldl Display.hit (d, false) := by
  suffices h : ∀ (r : Nat) (dc : Display × Bool), dc.1.width = d.width → dc.1.height = d.height →
      Display.drawRows wrap (xc.toNat % d.width) (yc.toNat % d.height + r) bytes dc =
        ((bytes.zipIdx r).flatMap fun (row, r) => d.rowPixels xc yc wrap r row).foldl Display.hit dc from h 0 _ rfl rfl
  induction bytes with
  | nil => intros; rfl
  | cons row bytes ih =>
    intro r dc hw hh
    have hs := Display.foldl_hit_size (d.rowPixels xc yc wrap r row) dc
    rw [Display.drawRows, Display.drawRow_eq d xc yc wrap r row hw hh, Nat.add_assoc,
      ih (r + 1) _ (hs.1.trans hw) (hs.2.trans hh)]
    simp [List.zipIdx_cons]

end Sys2Proof.Machine
end

