-- ==== Sys2Proof/Laws/State.lean ====
section
/-! SUPPORT. What each update of State does to each field, so that no proof unfolds a record update. -/

namespace Sys2Proof.Machine

/-! ### setMem -/

@[simp] theorem State.setMem_mem (s : State) (m : Memory) : (s.setMem m).mem = m := rfl
@[simp] theorem State.setMem_v (s : State) (m : Memory) : (s.setMem m).v = s.v := rfl
@[simp] theorem State.setMem_i (s : State) (m : Memory) : (s.setMem m).i = s.i := rfl
@[simp] theorem State.setMem_pc (s : State) (m : Memory) : (s.setMem m).pc = s.pc := rfl
@[simp] theorem State.setMem_sp (s : State) (m : Memory) : (s.setMem m).sp = s.sp := rfl
@[simp] theorem State.setMem_stack (s : State) (m : Memory) : (s.setMem m).stack = s.stack := rfl
@[simp] theorem State.setMem_dt (s : State) (m : Memory) : (s.setMem m).dt = s.dt := rfl
@[simp] theorem State.setMem_st (s : State) (m : Memory) : (s.setMem m).st = s.st := rfl
@[simp] theorem State.setMem_keyStates (s : State) (m : Memory) : (s.setMem m).keyStates = s.keyStates := rfl
@[simp] theorem State.setMem_lastKey (s : State) (m : Memory) : (s.setMem m).lastKey = s.lastKey := rfl
@[simp] theorem State.setMem_fault (s : State) (m : Memory) : (s.setMem m).fault = s.fault := rfl
@[simp] theorem State.setMem_quirks (s : State) (m : Memory) : (s.setMem m).quirks = s.quirks := rfl
@[simp] theorem State.setMem_platform (s : State) (m : Memory) : (s.setMem m).platform = s.platform := rfl
@[simp] theorem State.setMem_outcome (s : State) (m : Memory) : (s.setMem m).outcome = s.outcome := rfl
@[simp] theorem State.setMem_requests (s : State) (m : Memory) : (s.setMem m).requests = s.requests := rfl
@[simp] theorem State.setMem_draws (s : State) (m : Memory) : (s.setMem m).draws = s.draws := rfl

/-! ### setV -/

@[simp] theorem State.setV_mem (s : State) (x : Nibble) (b : Byte) : (s.setV x b).mem = s.mem := rfl
@[simp] theorem State.setV_v (s : State) (x : Nibble) (b : Byte) : (s.setV x b).v = s.v.set x.toNat b x.isLt := rfl
@[simp] theorem State.setV_i (s : State) (x : Nibble) (b : Byte) : (s.setV x b).i = s.i := rfl
@[simp] theorem State.setV_pc (s : State) (x : Nibble) (b : Byte) : (s.setV x b).pc = s.pc := rfl
@[simp] theorem State.setV_sp (s : State) (x : Nibble) (b : Byte) : (s.setV x b).sp = s.sp := rfl
@[simp] theorem State.setV_stack (s : State) (x : Nibble) (b : Byte) : (s.setV x b).stack = s.stack := rfl
@[simp] theorem State.setV_dt (s : State) (x : Nibble) (b : Byte) : (s.setV x b).dt = s.dt := rfl
@[simp] theorem State.setV_st (s : State) (x : Nibble) (b : Byte) : (s.setV x b).st = s.st := rfl
@[simp] theorem State.setV_keyStates (s : State) (x : Nibble) (b : Byte) : (s.setV x b).keyStates = s.keyStates := rfl
@[simp] theorem State.setV_lastKey (s : State) (x : Nibble) (b : Byte) : (s.setV x b).lastKey = s.lastKey := rfl
@[simp] theorem State.setV_fault (s : State) (x : Nibble) (b : Byte) : (s.setV x b).fault = s.fault := rfl
@[simp] theorem State.setV_quirks (s : State) (x : Nibble) (b : Byte) : (s.setV x b).quirks = s.quirks := rfl
@[simp] theorem State.setV_platform (s : State) (x : Nibble) (b : Byte) : (s.setV x b).platform = s.platform := rfl
@[simp] theorem State.setV_outcome (s : State) (x : Nibble) (b : Byte) : (s.setV x b).outcome = s.outcome := rfl
@[simp] theorem State.setV_requests (s : State) (x : Nibble) (b : Byte) : (s.setV x b).requests = s.requests := rfl
@[simp] theorem State.setV_draws (s : State) (x : Nibble) (b : Byte) : (s.setV x b).draws = s.draws := rfl

/-! ### setAllV -/

@[simp] theorem State.setAllV_mem (s : State) (v : Vector Byte 16) : (s.setAllV v).mem = s.mem := rfl
@[simp] theorem State.setAllV_v (s : State) (v : Vector Byte 16) : (s.setAllV v).v = v := rfl
@[simp] theorem State.setAllV_i (s : State) (v : Vector Byte 16) : (s.setAllV v).i = s.i := rfl
@[simp] theorem State.setAllV_pc (s : State) (v : Vector Byte 16) : (s.setAllV v).pc = s.pc := rfl
@[simp] theorem State.setAllV_sp (s : State) (v : Vector Byte 16) : (s.setAllV v).sp = s.sp := rfl
@[simp] theorem State.setAllV_stack (s : State) (v : Vector Byte 16) : (s.setAllV v).stack = s.stack := rfl
@[simp] theorem State.setAllV_dt (s : State) (v : Vector Byte 16) : (s.setAllV v).dt = s.dt := rfl
@[simp] theorem State.setAllV_st (s : State) (v : Vector Byte 16) : (s.setAllV v).st = s.st := rfl
@[simp] theorem State.setAllV_keyStates (s : State) (v : Vector Byte 16) : (s.setAllV v).keyStates = s.keyStates := rfl
@[simp] theorem State.setAllV_lastKey (s : State) (v : Vector Byte 16) : (s.setAllV v).lastKey = s.lastKey := rfl
@[simp] theorem State.setAllV_fault (s : State) (v : Vector Byte 16) : (s.setAllV v).fault = s.fault := rfl
@[simp] theorem State.setAllV_quirks (s : State) (v : Vector Byte 16) : (s.setAllV v).quirks = s.quirks := rfl
@[simp] theorem State.setAllV_platform (s : State) (v : Vector Byte 16) : (s.setAllV v).platform = s.platform := rfl
@[simp] theorem State.setAllV_outcome (s : State) (v : Vector Byte 16) : (s.setAllV v).outcome = s.outcome := rfl
@[simp] theorem State.setAllV_requests (s : State) (v : Vector Byte 16) : (s.setAllV v).requests = s.requests := rfl
@[simp] theorem State.setAllV_draws (s : State) (v : Vector Byte 16) : (s.setAllV v).draws = s.draws := rfl

/-! ### setI -/

@[simp] theorem State.setI_mem (s : State) (w : Word) : (s.setI w).mem = s.mem := rfl
@[simp] theorem State.setI_v (s : State) (w : Word) : (s.setI w).v = s.v := rfl
@[simp] theorem State.setI_i (s : State) (w : Word) : (s.setI w).i = w := rfl
@[simp] theorem State.setI_pc (s : State) (w : Word) : (s.setI w).pc = s.pc := rfl
@[simp] theorem State.setI_sp (s : State) (w : Word) : (s.setI w).sp = s.sp := rfl
@[simp] theorem State.setI_stack (s : State) (w : Word) : (s.setI w).stack = s.stack := rfl
@[simp] theorem State.setI_dt (s : State) (w : Word) : (s.setI w).dt = s.dt := rfl
@[simp] theorem State.setI_st (s : State) (w : Word) : (s.setI w).st = s.st := rfl
@[simp] theorem State.setI_keyStates (s : State) (w : Word) : (s.setI w).keyStates = s.keyStates := rfl
@[simp] theorem State.setI_lastKey (s : State) (w : Word) : (s.setI w).lastKey = s.lastKey := rfl
@[simp] theorem State.setI_fault (s : State) (w : Word) : (s.setI w).fault = s.fault := rfl
@[simp] theorem State.setI_quirks (s : State) (w : Word) : (s.setI w).quirks = s.quirks := rfl
@[simp] theorem State.setI_platform (s : State) (w : Word) : (s.setI w).platform = s.platform := rfl
@[simp] theorem State.setI_outcome (s : State) (w : Word) : (s.setI w).outcome = s.outcome := rfl
@[simp] theorem State.setI_requests (s : State) (w : Word) : (s.setI w).requests = s.requests := rfl
@[simp] theorem State.setI_draws (s : State) (w : Word) : (s.setI w).draws = s.draws := rfl

/-! ### setPc -/

@[simp] theorem State.setPc_mem (s : State) (w : Word) : (s.setPc w).mem = s.mem := rfl
@[simp] theorem State.setPc_v (s : State) (w : Word) : (s.setPc w).v = s.v := rfl
@[simp] theorem State.setPc_i (s : State) (w : Word) : (s.setPc w).i = s.i := rfl
@[simp] theorem State.setPc_pc (s : State) (w : Word) : (s.setPc w).pc = w := rfl
@[simp] theorem State.setPc_sp (s : State) (w : Word) : (s.setPc w).sp = s.sp := rfl
@[simp] theorem State.setPc_stack (s : State) (w : Word) : (s.setPc w).stack = s.stack := rfl
@[simp] theorem State.setPc_dt (s : State) (w : Word) : (s.setPc w).dt = s.dt := rfl
@[simp] theorem State.setPc_st (s : State) (w : Word) : (s.setPc w).st = s.st := rfl
@[simp] theorem State.setPc_keyStates (s : State) (w : Word) : (s.setPc w).keyStates = s.keyStates := rfl
@[simp] theorem State.setPc_lastKey (s : State) (w : Word) : (s.setPc w).lastKey = s.lastKey := rfl
@[simp] theorem State.setPc_fault (s : State) (w : Word) : (s.setPc w).fault = s.fault := rfl
@[simp] theorem State.setPc_quirks (s : State) (w : Word) : (s.setPc w).quirks = s.quirks := rfl
@[simp] theorem State.setPc_platform (s : State) (w : Word) : (s.setPc w).platform = s.platform := rfl
@[simp] theorem State.setPc_outcome (s : State) (w : Word) : (s.setPc w).outcome = s.outcome := rfl
@[simp] theorem State.setPc_requests (s : State) (w : Word) : (s.setPc w).requests = s.requests := rfl
@[simp] theorem State.setPc_draws (s : State) (w : Word) : (s.setPc w).draws = s.draws := rfl

/-! ### setDt -/

@[simp] theorem State.setDt_mem (s : State) (b : Byte) : (s.setDt b).mem = s.mem := rfl
@[simp] theorem State.setDt_v (s : State) (b : Byte) : (s.setDt b).v = s.v := rfl
@[simp] theorem State.setDt_i (s : State) (b : Byte) : (s.setDt b).i = s.i := rfl
@[simp] theorem State.setDt_pc (s : State) (b : Byte) : (s.setDt b).pc = s.pc := rfl
@[simp] theorem State.setDt_sp (s : State) (b : Byte) : (s.setDt b).sp = s.sp := rfl
@[simp] theorem State.setDt_stack (s : State) (b : Byte) : (s.setDt b).stack = s.stack := rfl
@[simp] theorem State.setDt_dt (s : State) (b : Byte) : (s.setDt b).dt = b := rfl
@[simp] theorem State.setDt_st (s : State) (b : Byte) : (s.setDt b).st = s.st := rfl
@[simp] theorem State.setDt_keyStates (s : State) (b : Byte) : (s.setDt b).keyStates = s.keyStates := rfl
@[simp] theorem State.setDt_lastKey (s : State) (b : Byte) : (s.setDt b).lastKey = s.lastKey := rfl
@[simp] theorem State.setDt_fault (s : State) (b : Byte) : (s.setDt b).fault = s.fault := rfl
@[simp] theorem State.setDt_quirks (s : State) (b : Byte) : (s.setDt b).quirks = s.quirks := rfl
@[simp] theorem State.setDt_platform (s : State) (b : Byte) : (s.setDt b).platform = s.platform := rfl
@[simp] theorem State.setDt_outcome (s : State) (b : Byte) : (s.setDt b).outcome = s.outcome := rfl
@[simp] theorem State.setDt_requests (s : State) (b : Byte) : (s.setDt b).requests = s.requests := rfl
@[simp] theorem State.setDt_draws (s : State) (b : Byte) : (s.setDt b).draws = s.draws := rfl

/-! ### setSt -/

@[simp] theorem State.setSt_mem (s : State) (b : Byte) : (s.setSt b).mem = s.mem := rfl
@[simp] theorem State.setSt_v (s : State) (b : Byte) : (s.setSt b).v = s.v := rfl
@[simp] theorem State.setSt_i (s : State) (b : Byte) : (s.setSt b).i = s.i := rfl
@[simp] theorem State.setSt_pc (s : State) (b : Byte) : (s.setSt b).pc = s.pc := rfl
@[simp] theorem State.setSt_sp (s : State) (b : Byte) : (s.setSt b).sp = s.sp := rfl
@[simp] theorem State.setSt_stack (s : State) (b : Byte) : (s.setSt b).stack = s.stack := rfl
@[simp] theorem State.setSt_dt (s : State) (b : Byte) : (s.setSt b).dt = s.dt := rfl
@[simp] theorem State.setSt_st (s : State) (b : Byte) : (s.setSt b).st = b := rfl
@[simp] theorem State.setSt_keyStates (s : State) (b : Byte) : (s.setSt b).keyStates = s.keyStates := rfl
@[simp] theorem State.setSt_lastKey (s : State) (b : Byte) : (s.setSt b).lastKey = s.lastKey := rfl
@[simp] theorem State.setSt_fault (s : State) (b : Byte) : (s.setSt b).fault = s.fault := rfl
@[simp] theorem State.setSt_quirks (s : State) (b : Byte) : (s.setSt b).quirks = s.quirks := rfl
@[simp] theorem State.setSt_platform (s : State) (b : Byte) : (s.setSt b).platform = s.platform := rfl
@[simp] theorem State.setSt_outcome (s : State) (b : Byte) : (s.setSt b).outcome = s.outcome := rfl
@[simp] theorem State.setSt_requests (s : State) (b : Byte) : (s.setSt b).requests = s.requests := rfl
@[simp] theorem State.setSt_draws (s : State) (b : Byte) : (s.setSt b).draws = s.draws := rfl

/-! ### setKeyState -/

@[simp] theorem State.setKeyState_mem (s : State) (k : Nibble) (d : Bool) : (s.setKeyState k d).mem = s.mem := rfl
@[simp] theorem State.setKeyState_v (s : State) (k : Nibble) (d : Bool) : (s.setKeyState k d).v = s.v := rfl
@[simp] theorem State.setKeyState_i (s : State) (k : Nibble) (d : Bool) : (s.setKeyState k d).i = s.i := rfl
@[simp] theorem State.setKeyState_pc (s : State) (k : Nibble) (d : Bool) : (s.setKeyState k d).pc = s.pc := rfl
@[simp] theorem State.setKeyState_sp (s : State) (k : Nibble) (d : Bool) : (s.setKeyState k d).sp = s.sp := rfl
@[simp] theorem State.setKeyState_stack (s : State) (k : Nibble) (d : Bool) : (s.setKeyState k d).stack = s.stack := rfl
@[simp] theorem State.setKeyState_dt (s : State) (k : Nibble) (d : Bool) : (s.setKeyState k d).dt = s.dt := rfl
@[simp] theorem State.setKeyState_st (s : State) (k : Nibble) (d : Bool) : (s.setKeyState k d).st = s.st := rfl
@[simp] theorem State.setKeyState_keyStates (s : State) (k : Nibble) (d : Bool) : (s.setKeyState k d).keyStates = s.keyStates.set k.toNat d k.isLt := rfl
@[simp] theorem State.setKeyState_lastKey (s : State) (k : Nibble) (d : Bool) : (s.setKeyState k d).lastKey = s.lastKey := rfl
@[simp] theorem State.setKeyState_fault (s : State) (k : Nibble) (d : Bool) : (s.setKeyState k d).fault = s.fault := rfl
@[simp] theorem State.setKeyState_quirks (s : State) (k : Nibble) (d : Bool) : (s.setKeyState k d).quirks = s.quirks := rfl
@[simp] theorem State.setKeyState_platform (s : State) (k : Nibble) (d : Bool) : (s.setKeyState k d).platform = s.platform := rfl
@[simp] theorem State.setKeyState_outcome (s : State) (k : Nibble) (d : Bool) : (s.setKeyState k d).outcome = s.outcome := rfl
@[simp] theorem State.setKeyState_requests (s : State) (k : Nibble) (d : Bool) : (s.setKeyState k d).requests = s.requests := rfl
@[simp] theorem State.setKeyState_draws (s : State) (k : Nibble) (d : Bool) : (s.setKeyState k d).draws = s.draws := rfl

/-! ### setLast -/

@[simp] theorem State.setLast_mem (s : State) (k : Option Nibble) : (s.setLast k).mem = s.mem := rfl
@[simp] theorem State.setLast_v (s : State) (k : Option Nibble) : (s.setLast k).v = s.v := rfl
@[simp] theorem State.setLast_i (s : State) (k : Option Nibble) : (s.setLast k).i = s.i := rfl
@[simp] theorem State.setLast_pc (s : State) (k : Option Nibble) : (s.setLast k).pc = s.pc := rfl
@[simp] theorem State.setLast_sp (s : State) (k : Option Nibble) : (s.setLast k).sp = s.sp := rfl
@[simp] theorem State.setLast_stack (s : State) (k : Option Nibble) : (s.setLast k).stack = s.stack := rfl
@[simp] theorem State.setLast_dt (s : State) (k : Option Nibble) : (s.setLast k).dt = s.dt := rfl
@[simp] theorem State.setLast_st (s : State) (k : Option Nibble) : (s.setLast k).st = s.st := rfl
@[simp] theorem State.setLast_keyStates (s : State) (k : Option Nibble) : (s.setLast k).keyStates = s.keyStates := rfl
@[simp] theorem State.setLast_lastKey (s : State) (k : Option Nibble) : (s.setLast k).lastKey = k := rfl
@[simp] theorem State.setLast_fault (s : State) (k : Option Nibble) : (s.setLast k).fault = s.fault := rfl
@[simp] theorem State.setLast_quirks (s : State) (k : Option Nibble) : (s.setLast k).quirks = s.quirks := rfl
@[simp] theorem State.setLast_platform (s : State) (k : Option Nibble) : (s.setLast k).platform = s.platform := rfl
@[simp] theorem State.setLast_outcome (s : State) (k : Option Nibble) : (s.setLast k).outcome = s.outcome := rfl
@[simp] theorem State.setLast_requests (s : State) (k : Option Nibble) : (s.setLast k).requests = s.requests := rfl
@[simp] theorem State.setLast_draws (s : State) (k : Option Nibble) : (s.setLast k).draws = s.draws := rfl

/-! ### setFault -/

@[simp] theorem State.setFault_mem (s : State) (r : FaultRecord) : (s.setFault r).mem = s.mem := rfl
@[simp] theorem State.setFault_v (s : State) (r : FaultRecord) : (s.setFault r).v = s.v := rfl
@[simp] theorem State.setFault_i (s : State) (r : FaultRecord) : (s.setFault r).i = s.i := rfl
@[simp] theorem State.setFault_pc (s : State) (r : FaultRecord) : (s.setFault r).pc = s.pc := rfl
@[simp] theorem State.setFault_sp (s : State) (r : FaultRecord) : (s.setFault r).sp = s.sp := rfl
@[simp] theorem State.setFault_stack (s : State) (r : FaultRecord) : (s.setFault r).stack = s.stack := rfl
@[simp] theorem State.setFault_dt (s : State) (r : FaultRecord) : (s.setFault r).dt = s.dt := rfl
@[simp] theorem State.setFault_st (s : State) (r : FaultRecord) : (s.setFault r).st = s.st := rfl
@[simp] theorem State.setFault_keyStates (s : State) (r : FaultRecord) : (s.setFault r).keyStates = s.keyStates := rfl
@[simp] theorem State.setFault_lastKey (s : State) (r : FaultRecord) : (s.setFault r).lastKey = s.lastKey := rfl
@[simp] theorem State.setFault_fault (s : State) (r : FaultRecord) : (s.setFault r).fault = some r := rfl
@[simp] theorem State.setFault_quirks (s : State) (r : FaultRecord) : (s.setFault r).quirks = s.quirks := rfl
@[simp] theorem State.setFault_platform (s : State) (r : FaultRecord) : (s.setFault r).platform = s.platform := rfl
@[simp] theorem State.setFault_outcome (s : State) (r : FaultRecord) : (s.setFault r).outcome = s.outcome := rfl
@[simp] theorem State.setFault_requests (s : State) (r : FaultRecord) : (s.setFault r).requests = s.requests := rfl
@[simp] theorem State.setFault_draws (s : State) (r : FaultRecord) : (s.setFault r).draws = s.draws := rfl

/-! ### countDraw -/

@[simp] theorem State.countDraw_mem (s : State) : (s.countDraw).mem = s.mem := rfl
@[simp] theorem State.countDraw_v (s : State) : (s.countDraw).v = s.v := rfl
@[simp] theorem State.countDraw_i (s : State) : (s.countDraw).i = s.i := rfl
@[simp] theorem State.countDraw_pc (s : State) : (s.countDraw).pc = s.pc := rfl
@[simp] theorem State.countDraw_sp (s : State) : (s.countDraw).sp = s.sp := rfl
@[simp] theorem State.countDraw_stack (s : State) : (s.countDraw).stack = s.stack := rfl
@[simp] theorem State.countDraw_dt (s : State) : (s.countDraw).dt = s.dt := rfl
@[simp] theorem State.countDraw_st (s : State) : (s.countDraw).st = s.st := rfl
@[simp] theorem State.countDraw_keyStates (s : State) : (s.countDraw).keyStates = s.keyStates := rfl
@[simp] theorem State.countDraw_lastKey (s : State) : (s.countDraw).lastKey = s.lastKey := rfl
@[simp] theorem State.countDraw_fault (s : State) : (s.countDraw).fault = s.fault := rfl
@[simp] theorem State.countDraw_quirks (s : State) : (s.countDraw).quirks = s.quirks := rfl
@[simp] theorem State.countDraw_platform (s : State) : (s.countDraw).platform = s.platform := rfl
@[simp] theorem State.countDraw_outcome (s : State) : (s.countDraw).outcome = s.outcome := rfl
@[simp] theorem State.countDraw_requests (s : State) : (s.countDraw).requests = s.requests := rfl
@[simp] theorem State.countDraw_draws (s : State) : (s.countDraw).draws = s.draws + 1 := rfl

/-! ### report -/

@[simp] theorem State.report_mem (s : State) (o : StepOutcome) (reqs : List Request) : (s.report o reqs).mem = s.mem := rfl
@[simp] theorem State.report_v (s : State) (o : StepOutcome) (reqs : List Request) : (s.report o reqs).v = s.v := rfl
@[simp] theorem State.report_i (s : State) (o : StepOutcome) (reqs : List Request) : (s.report o reqs).i = s.i := rfl
@[simp] theorem State.report_pc (s : State) (o : StepOutcome) (reqs : List Request) : (s.report o reqs).pc = s.pc := rfl
@[simp] theorem State.report_sp (s : State) (o : StepOutcome) (reqs : List Request) : (s.report o reqs).sp = s.sp := rfl
@[simp] theorem State.report_stack (s : State) (o : StepOutcome) (reqs : List Request) : (s.report o reqs).stack = s.stack := rfl
@[simp] theorem State.report_dt (s : State) (o : StepOutcome) (reqs : List Request) : (s.report o reqs).dt = s.dt := rfl
@[simp] theorem State.report_st (s : State) (o : StepOutcome) (reqs : List Request) : (s.report o reqs).st = s.st := rfl
@[simp] theorem State.report_keyStates (s : State) (o : StepOutcome) (reqs : List Request) : (s.report o reqs).keyStates = s.keyStates := rfl
@[simp] theorem State.report_lastKey (s : State) (o : StepOutcome) (reqs : List Request) : (s.report o reqs).lastKey = s.lastKey := rfl
@[simp] theorem State.report_fault (s : State) (o : StepOutcome) (reqs : List Request) : (s.report o reqs).fault = s.fault := rfl
@[simp] theorem State.report_quirks (s : State) (o : StepOutcome) (reqs : List Request) : (s.report o reqs).quirks = s.quirks := rfl
@[simp] theorem State.report_platform (s : State) (o : StepOutcome) (reqs : List Request) : (s.report o reqs).platform = s.platform := rfl
@[simp] theorem State.report_outcome (s : State) (o : StepOutcome) (reqs : List Request) : (s.report o reqs).outcome = some o := rfl
@[simp] theorem State.report_requests (s : State) (o : StepOutcome) (reqs : List Request) : (s.report o reqs).requests = reqs := rfl
@[simp] theorem State.report_draws (s : State) (o : StepOutcome) (reqs : List Request) : (s.report o reqs).draws = s.draws := rfl

/-! ### core -/

@[simp] theorem State.core_mem (s : State) : (s.core).mem = s.mem := rfl
@[simp] theorem State.core_v (s : State) : (s.core).v = s.v := rfl
@[simp] theorem State.core_i (s : State) : (s.core).i = s.i := rfl
@[simp] theorem State.core_pc (s : State) : (s.core).pc = s.pc := rfl
@[simp] theorem State.core_sp (s : State) : (s.core).sp = s.sp := rfl
@[simp] theorem State.core_stack (s : State) : (s.core).stack = s.stack := rfl
@[simp] theorem State.core_dt (s : State) : (s.core).dt = s.dt := rfl
@[simp] theorem State.core_st (s : State) : (s.core).st = s.st := rfl
@[simp] theorem State.core_keyStates (s : State) : (s.core).keyStates = s.keyStates := rfl
@[simp] theorem State.core_lastKey (s : State) : (s.core).lastKey = s.lastKey := rfl
@[simp] theorem State.core_fault (s : State) : (s.core).fault = s.fault := rfl
@[simp] theorem State.core_quirks (s : State) : (s.core).quirks = s.quirks := rfl
@[simp] theorem State.core_platform (s : State) : (s.core).platform = s.platform := rfl
@[simp] theorem State.core_outcome (s : State) : (s.core).outcome = none := rfl
@[simp] theorem State.core_requests (s : State) : (s.core).requests = [] := rfl
@[simp] theorem State.core_draws (s : State) : (s.core).draws = s.draws := rfl

/-! ### advance -/

@[simp] theorem State.advance_mem (s : State) : (s.advance).mem = s.mem := rfl
@[simp] theorem State.advance_v (s : State) : (s.advance).v = s.v := rfl
@[simp] theorem State.advance_i (s : State) : (s.advance).i = s.i := rfl
@[simp] theorem State.advance_pc (s : State) : (s.advance).pc = s.pc + 2 := rfl
@[simp] theorem State.advance_sp (s : State) : (s.advance).sp = s.sp := rfl
@[simp] theorem State.advance_stack (s : State) : (s.advance).stack = s.stack := rfl
@[simp] theorem State.advance_dt (s : State) : (s.advance).dt = s.dt := rfl
@[simp] theorem State.advance_st (s : State) : (s.advance).st = s.st := rfl
@[simp] theorem State.advance_keyStates (s : State) : (s.advance).keyStates = s.keyStates := rfl
@[simp] theorem State.advance_lastKey (s : State) : (s.advance).lastKey = s.lastKey := rfl
@[simp] theorem State.advance_fault (s : State) : (s.advance).fault = s.fault := rfl
@[simp] theorem State.advance_quirks (s : State) : (s.advance).quirks = s.quirks := rfl
@[simp] theorem State.advance_platform (s : State) : (s.advance).platform = s.platform := rfl
@[simp] theorem State.advance_outcome (s : State) : (s.advance).outcome = s.outcome := rfl
@[simp] theorem State.advance_requests (s : State) : (s.advance).requests = s.requests := rfl
@[simp] theorem State.advance_draws (s : State) : (s.advance).draws = s.draws := rfl

/-! ### skipIf -/

@[simp] theorem State.skipIf_mem (s : State) (c : Bool) : (s.skipIf c).mem = s.mem := rfl
@[simp] theorem State.skipIf_v (s : State) (c : Bool) : (s.skipIf c).v = s.v := rfl
@[simp] theorem State.skipIf_i (s : State) (c : Bool) : (s.skipIf c).i = s.i := rfl
@[simp] theorem State.skipIf_pc (s : State) (c : Bool) : (s.skipIf c).pc = if c then s.pc + 4 else s.pc + 2 := rfl
@[simp] theorem State.skipIf_sp (s : State) (c : Bool) : (s.skipIf c).sp = s.sp := rfl
@[simp] theorem State.skipIf_stack (s : State) (c : Bool) : (s.skipIf c).stack = s.stack := rfl
@[simp] theorem State.skipIf_dt (s : State) (c : Bool) : (s.skipIf c).dt = s.dt := rfl
@[simp] theorem State.skipIf_st (s : State) (c : Bool) : (s.skipIf c).st = s.st := rfl
@[simp] theorem State.skipIf_keyStates (s : State) (c : Bool) : (s.skipIf c).keyStates = s.keyStates := rfl
@[simp] theorem State.skipIf_lastKey (s : State) (c : Bool) : (s.skipIf c).lastKey = s.lastKey := rfl
@[simp] theorem State.skipIf_fault (s : State) (c : Bool) : (s.skipIf c).fault = s.fault := rfl
@[simp] theorem State.skipIf_quirks (s : State) (c : Bool) : (s.skipIf c).quirks = s.quirks := rfl
@[simp] theorem State.skipIf_platform (s : State) (c : Bool) : (s.skipIf c).platform = s.platform := rfl
@[simp] theorem State.skipIf_outcome (s : State) (c : Bool) : (s.skipIf c).outcome = s.outcome := rfl
@[simp] theorem State.skipIf_requests (s : State) (c : Bool) : (s.skipIf c).requests = s.requests := rfl
@[simp] theorem State.skipIf_draws (s : State) (c : Bool) : (s.skipIf c).draws = s.draws := rfl

/-! ### push -/

@[simp] theorem State.push_mem (s : State) (h : s.sp.toNat < 16) (w : Word) : (s.push h w).mem = s.mem := rfl
@[simp] theorem State.push_v (s : State) (h : s.sp.toNat < 16) (w : Word) : (s.push h w).v = s.v := rfl
@[simp] theorem State.push_i (s : State) (h : s.sp.toNat < 16) (w : Word) : (s.push h w).i = s.i := rfl
@[simp] theorem State.push_pc (s : State) (h : s.sp.toNat < 16) (w : Word) : (s.push h w).pc = s.pc := rfl
@[simp] theorem State.push_sp (s : State) (h : s.sp.toNat < 16) (w : Word) : (s.push h w).sp = s.sp + 1 := rfl
@[simp] theorem State.push_stack (s : State) (h : s.sp.toNat < 16) (w : Word) : (s.push h w).stack = s.stack.set s.sp.toNat w h := rfl
@[simp] theorem State.push_dt (s : State) (h : s.sp.toNat < 16) (w : Word) : (s.push h w).dt = s.dt := rfl
@[simp] theorem State.push_st (s : State) (h : s.sp.toNat < 16) (w : Word) : (s.push h w).st = s.st := rfl
@[simp] theorem State.push_keyStates (s : State) (h : s.sp.toNat < 16) (w : Word) : (s.push h w).keyStates = s.keyStates := rfl
@[simp] theorem State.push_lastKey (s : State) (h : s.sp.toNat < 16) (w : Word) : (s.push h w).lastKey = s.lastKey := rfl
@[simp] theorem State.push_fault (s : State) (h : s.sp.toNat < 16) (w : Word) : (s.push h w).fault = s.fault := rfl
@[simp] theorem State.push_quirks (s : State) (h : s.sp.toNat < 16) (w : Word) : (s.push h w).quirks = s.quirks := rfl
@[simp] theorem State.push_platform (s : State) (h : s.sp.toNat < 16) (w : Word) : (s.push h w).platform = s.platform := rfl
@[simp] theorem State.push_outcome (s : State) (h : s.sp.toNat < 16) (w : Word) : (s.push h w).outcome = s.outcome := rfl
@[simp] theorem State.push_requests (s : State) (h : s.sp.toNat < 16) (w : Word) : (s.push h w).requests = s.requests := rfl
@[simp] theorem State.push_draws (s : State) (h : s.sp.toNat < 16) (w : Word) : (s.push h w).draws = s.draws := rfl

/-! ### pop -/

@[simp] theorem State.pop_mem (s : State) : (s.pop).mem = s.mem := rfl
@[simp] theorem State.pop_v (s : State) : (s.pop).v = s.v := rfl
@[simp] theorem State.pop_i (s : State) : (s.pop).i = s.i := rfl
@[simp] theorem State.pop_pc (s : State) : (s.pop).pc = s.pc := rfl
@[simp] theorem State.pop_sp (s : State) : (s.pop).sp = s.sp - 1 := rfl
@[simp] theorem State.pop_stack (s : State) : (s.pop).stack = s.stack := rfl
@[simp] theorem State.pop_dt (s : State) : (s.pop).dt = s.dt := rfl
@[simp] theorem State.pop_st (s : State) : (s.pop).st = s.st := rfl
@[simp] theorem State.pop_keyStates (s : State) : (s.pop).keyStates = s.keyStates := rfl
@[simp] theorem State.pop_lastKey (s : State) : (s.pop).lastKey = s.lastKey := rfl
@[simp] theorem State.pop_fault (s : State) : (s.pop).fault = s.fault := rfl
@[simp] theorem State.pop_quirks (s : State) : (s.pop).quirks = s.quirks := rfl
@[simp] theorem State.pop_platform (s : State) : (s.pop).platform = s.platform := rfl
@[simp] theorem State.pop_outcome (s : State) : (s.pop).outcome = s.outcome := rfl
@[simp] theorem State.pop_requests (s : State) : (s.pop).requests = s.requests := rfl
@[simp] theorem State.pop_draws (s : State) : (s.pop).draws = s.draws := rfl

/-! ### logicFlag -/

@[simp] theorem State.logicFlag_mem (s : State) : s.logicFlag.mem = s.mem := by unfold State.logicFlag; split <;> rfl
@[simp] theorem State.logicFlag_i (s : State) : s.logicFlag.i = s.i := by unfold State.logicFlag; split <;> rfl
@[simp] theorem State.logicFlag_pc (s : State) : s.logicFlag.pc = s.pc := by unfold State.logicFlag; split <;> rfl
@[simp] theorem State.logicFlag_sp (s : State) : s.logicFlag.sp = s.sp := by unfold State.logicFlag; split <;> rfl
@[simp] theorem State.logicFlag_stack (s : State) : s.logicFlag.stack = s.stack := by unfold State.logicFlag; split <;> rfl
@[simp] theorem State.logicFlag_dt (s : State) : s.logicFlag.dt = s.dt := by unfold State.logicFlag; split <;> rfl
@[simp] theorem State.logicFlag_st (s : State) : s.logicFlag.st = s.st := by unfold State.logicFlag; split <;> rfl
@[simp] theorem State.logicFlag_keyStates (s : State) : s.logicFlag.keyStates = s.keyStates := by unfold State.logicFlag; split <;> rfl
@[simp] theorem State.logicFlag_lastKey (s : State) : s.logicFlag.lastKey = s.lastKey := by unfold State.logicFlag; split <;> rfl
@[simp] theorem State.logicFlag_fault (s : State) : s.logicFlag.fault = s.fault := by unfold State.logicFlag; split <;> rfl
@[simp] theorem State.logicFlag_quirks (s : State) : s.logicFlag.quirks = s.quirks := by unfold State.logicFlag; split <;> rfl
@[simp] theorem State.logicFlag_platform (s : State) : s.logicFlag.platform = s.platform := by unfold State.logicFlag; split <;> rfl
@[simp] theorem State.logicFlag_outcome (s : State) : s.logicFlag.outcome = s.outcome := by unfold State.logicFlag; split <;> rfl
@[simp] theorem State.logicFlag_requests (s : State) : s.logicFlag.requests = s.requests := by unfold State.logicFlag; split <;> rfl
@[simp] theorem State.logicFlag_draws (s : State) : s.logicFlag.draws = s.draws := by unfold State.logicFlag; split <;> rfl

/-! ### Reading a register after an update -/

theorem State.getV_setV (s : State) (x r : Nibble) (b : Byte) :
    (s.setV x b).getV r = if r = x then b else s.getV r := by
  simp only [State.getV, State.setV, Vector.getElem_set, ← BitVec.toNat_inj]
  by_cases h : x.toNat = r.toNat <;> simp [h, eq_comm]

@[simp] theorem State.getV_setV_same (s : State) (x : Nibble) (b : Byte) : (s.setV x b).getV x = b := by
  simp [State.getV_setV]

theorem State.getV_setV_of_ne (s : State) {x r : Nibble} (b : Byte) (h : r ≠ x) :
    (s.setV x b).getV r = s.getV r := by
  simp [State.getV_setV, h]

/-- Two states with the same registers give the same register. -/
theorem State.getV_congr {s t : State} (h : t.v = s.v) (x : Nibble) : t.getV x = s.getV x := by
  simp [State.getV, h]

theorem State.getV_logicFlag (s : State) (r : Nibble) :
    s.logicFlag.getV r = if s.quirks.logicVfReset ∧ r = vf then 0 else s.getV r := by
  unfold State.logicFlag
  by_cases h : s.quirks.logicVfReset <;> simp [h, State.getV_setV]

@[simp] theorem State.getV_setMem (s : State) (m : Memory) (x : Nibble) : (s.setMem m).getV x = s.getV x := rfl
@[simp] theorem State.getV_setI (s : State) (w : Word) (x : Nibble) : (s.setI w).getV x = s.getV x := rfl
@[simp] theorem State.getV_setPc (s : State) (w : Word) (x : Nibble) : (s.setPc w).getV x = s.getV x := rfl
@[simp] theorem State.getV_setDt (s : State) (b : Byte) (x : Nibble) : (s.setDt b).getV x = s.getV x := rfl
@[simp] theorem State.getV_setSt (s : State) (b : Byte) (x : Nibble) : (s.setSt b).getV x = s.getV x := rfl
@[simp] theorem State.getV_setKeyState (s : State) (k : Nibble) (d : Bool) (x : Nibble) : (s.setKeyState k d).getV x = s.getV x := rfl
@[simp] theorem State.getV_setLast (s : State) (k : Option Nibble) (x : Nibble) : (s.setLast k).getV x = s.getV x := rfl
@[simp] theorem State.getV_setFault (s : State) (r : FaultRecord) (x : Nibble) : (s.setFault r).getV x = s.getV x := rfl
@[simp] theorem State.getV_countDraw (s : State) (x : Nibble) : (s.countDraw).getV x = s.getV x := rfl
@[simp] theorem State.getV_report (s : State) (o : StepOutcome) (reqs : List Request) (x : Nibble) : (s.report o reqs).getV x = s.getV x := rfl
@[simp] theorem State.getV_core (s : State) (x : Nibble) : (s.core).getV x = s.getV x := rfl
@[simp] theorem State.getV_advance (s : State) (x : Nibble) : (s.advance).getV x = s.getV x := rfl
@[simp] theorem State.getV_skipIf (s : State) (c : Bool) (x : Nibble) : (s.skipIf c).getV x = s.getV x := rfl
@[simp] theorem State.getV_push (s : State) (h : s.sp.toNat < 16) (w : Word) (x : Nibble) : (s.push h w).getV x = s.getV x := rfl
@[simp] theorem State.getV_pop (s : State) (x : Nibble) : (s.pop).getV x = s.getV x := rfl

@[simp] theorem State.readByte_setV (s : State) (x : Nibble) (b : Byte) (a : Nat) : (s.setV x b).readByte a = s.readByte a := rfl
@[simp] theorem State.readByte_setAllV (s : State) (v : Vector Byte 16) (a : Nat) : (s.setAllV v).readByte a = s.readByte a := rfl
@[simp] theorem State.readByte_setI (s : State) (w : Word) (a : Nat) : (s.setI w).readByte a = s.readByte a := rfl
@[simp] theorem State.readByte_setPc (s : State) (w : Word) (a : Nat) : (s.setPc w).readByte a = s.readByte a := rfl
@[simp] theorem State.readByte_setDt (s : State) (b : Byte) (a : Nat) : (s.setDt b).readByte a = s.readByte a := rfl
@[simp] theorem State.readByte_setSt (s : State) (b : Byte) (a : Nat) : (s.setSt b).readByte a = s.readByte a := rfl
@[simp] theorem State.readByte_setKeyState (s : State) (k : Nibble) (d : Bool) (a : Nat) : (s.setKeyState k d).readByte a = s.readByte a := rfl
@[simp] theorem State.readByte_setLast (s : State) (k : Option Nibble) (a : Nat) : (s.setLast k).readByte a = s.readByte a := rfl
@[simp] theorem State.readByte_setFault (s : State) (r : FaultRecord) (a : Nat) : (s.setFault r).readByte a = s.readByte a := rfl
@[simp] theorem State.readByte_countDraw (s : State) (a : Nat) : (s.countDraw).readByte a = s.readByte a := rfl
@[simp] theorem State.readByte_report (s : State) (o : StepOutcome) (reqs : List Request) (a : Nat) : (s.report o reqs).readByte a = s.readByte a := rfl
@[simp] theorem State.readByte_core (s : State) (a : Nat) : (s.core).readByte a = s.readByte a := rfl
@[simp] theorem State.readByte_advance (s : State) (a : Nat) : (s.advance).readByte a = s.readByte a := rfl
@[simp] theorem State.readByte_skipIf (s : State) (c : Bool) (a : Nat) : (s.skipIf c).readByte a = s.readByte a := rfl
@[simp] theorem State.readByte_push (s : State) (h : s.sp.toNat < 16) (w : Word) (a : Nat) : (s.push h w).readByte a = s.readByte a := rfl
@[simp] theorem State.readByte_pop (s : State) (a : Nat) : (s.pop).readByte a = s.readByte a := rfl
@[simp] theorem State.readByte_setMem (s : State) (m : Memory) (a : Nat) : (s.setMem m).readByte a = Memory.read m a := rfl
@[simp] theorem State.readByte_logicFlag (s : State) (a : Nat) : s.logicFlag.readByte a = s.readByte a := by simp [State.readByte]

end Sys2Proof.Machine
end

