-- ==== Sys2Proof/Laws/Ops.lean ====
section
/-! SUPPORT. What each shared operation can do, said once: the address checks in closed form, the ways a step ends, the
results of the ALU's shared shapes. -/

namespace Sys2Proof.Machine

/-! ### The address checks (R40, R114) -/

/-- A read of `n` bytes passes when every address exists, and else names the lowest that does not. -/
theorem firstFault_readFault (a n : Nat) :
    firstFault readFault a n =
      if n = 0 ∨ a + n ≤ 4096 then none else some (.memOutOfRange, max a 4096) := by
  induction n generalizing a with
  | zero => simp [firstFault]
  | succ n ih =>
    rw [firstFault, readFault]
    by_cases h : 0xFFF < a
    · have h1 : ¬ (n + 1 = 0 ∨ a + (n + 1) ≤ 4096) := by omega
      have h2 : max a 4096 = a := by omega
      rw [if_pos h, if_neg h1, h2]
    · rw [if_neg h]
      simp only [ih]
      by_cases h1 : n = 0 ∨ a + 1 + n ≤ 4096
      · rw [if_pos h1, if_pos (by omega)]
      · rw [if_neg h1, if_neg (by omega)]
        have h2 : max (a + 1) 4096 = max a 4096 := by omega
        rw [h2]

/-- A write under LOW_WRITE = allow, or one that starts at 0x200 or above, is checked as a read is. -/
theorem firstFault_writeFault {lw : LowWrite} {a : Nat} (n : Nat) (h : lw = .fault → 0x200 ≤ a) :
    firstFault (writeFault lw) a n = firstFault readFault a n := by
  induction n generalizing a with
  | zero => rfl
  | succ n ih =>
    have e : writeFault lw a = readFault a := by
      unfold writeFault readFault
      split
      · rfl
      · exact if_neg fun hc => absurd (h hc.2) (by omega)
    rw [firstFault, firstFault, e, ih fun hf => Nat.le_succ_of_le (h hf)]

/-- A write that starts below 0x200 under LOW_WRITE = fault names its first address. -/
theorem firstFault_writeFault_low {a n : Nat} (h : a < 0x200) (hn : 0 < n) :
    firstFault (writeFault .fault) a n = some (.lowWriteProtected, a) := by
  obtain ⟨n, rfl⟩ : ∃ m, n = m + 1 := ⟨n - 1, by omega⟩
  have h1 : ¬ 0xFFF < a := by omega
  simp [firstFault, writeFault, h1, h]

/-- The check of a read at I. -/
theorem State.readCheck_eq (s : State) (n : Nat) :
    s.readCheck n = if n = 0 ∨ s.i.toNat + n ≤ 4096 then none else some (.memOutOfRange, max s.i.toNat 4096) :=
  firstFault_readFault _ _

/-- The check of a write at I where LOW_WRITE does not forbid it. -/
theorem State.writeCheck_eq (s : State) (n : Nat) (h : s.platform.lowWrite = .fault → 0x200 ≤ s.i.toNat) :
    s.writeCheck n = if n = 0 ∨ s.i.toNat + n ≤ 4096 then none else some (.memOutOfRange, max s.i.toNat 4096) :=
  (firstFault_writeFault n h).trans (firstFault_readFault _ _)

/-- The check of a write at I where LOW_WRITE forbids it. -/
theorem State.writeCheck_low (s : State) {n : Nat} (h : s.platform.lowWrite = .fault) (hi : s.i.toNat < 0x200)
    (hn : 0 < n) : s.writeCheck n = some (.lowWriteProtected, s.i.toNat) := by
  rw [State.writeCheck, h]
  exact firstFault_writeFault_low hi hn

/-- A write that passes its check stays inside memory. -/
theorem State.writeCheck_none {s : State} {n : Nat} (h : s.writeCheck n = none) : n = 0 ∨ s.i.toNat + n ≤ memSize := by
  by_cases hl : s.platform.lowWrite = .fault → 0x200 ≤ s.i.toNat
  · rw [State.writeCheck_eq s n hl] at h
    split at h
    · assumption
    · cases h
  · rcases Nat.eq_zero_or_pos n with hn | hn
    · exact .inl hn
    · have hf : s.platform.lowWrite = .fault := Classical.byContradiction fun hc => hl fun hx => absurd hx hc
      rw [State.writeCheck_low s hf (Nat.lt_of_not_le fun hx => hl fun _ => hx) hn] at h
      cases h

/-! ### The ways a step ends -/

/-- A fault is taken precisely, and it is always taken. -/
theorem raiseFault_taken (s : State) (c : FaultCause) (n : Nat) :
    ∃ t, raiseFault s c n = .next t ∧ FaultTaken c n s t := ⟨_, rfl, rfl⟩

/-- A fault answers exactly the state with the record set and the fault reported. -/
@[simp] theorem raiseFault_eq_next (s t : State) (c : FaultCause) (n : Nat) :
    raiseFault s c n = .next t ↔
      t = (s.setFault { cause := c, info := n, pc := s.pc }).report (.fault c n) [] := by
  simp [raiseFault, eq_comm]

/-- `done` answers exactly the state with its results filled in. -/
@[simp] theorem done_eq_next (s t : State) (reqs : List Request) :
    done s reqs = .next t ↔ t = s.report .advanced reqs := by
  simp [done, eq_comm]

/-- An advancing step without requests is quiet. -/
theorem quiet_report (s : State) : Quiet (s.report .advanced []) := ⟨rfl, rfl⟩

/-! ### Frames -/

/-- A state that differs from `s` in PC and in registers of `regs` only meets their frame. -/
theorem unchanged_of_regs {regs : List Nibble} {s t : State} (hv : ∀ r, r ∉ regs → t.getV r = s.getV r)
    (h : { t with v := s.v, pc := s.pc, outcome := s.outcome, requests := s.requests } = s) :
    Unchanged { regs := regs } s t := by
  obtain ⟨⟩ := s
  obtain ⟨⟩ := t
  simp only [State.mk.injEq] at h
  obtain ⟨rfl, _, rfl, _, rfl, rfl, rfl, rfl, rfl, rfl, rfl, rfl, rfl, _⟩ := h
  simp_all [Unchanged, State.readByte]

/-! ### The shared shapes of the ALU -/

/-- A load result: the register takes the value, PC moves on, nothing else changes (R85 to R87). -/
theorem loadResult_next (s : State) (x : Nibble) (r : Byte) :
    ∃ t, loadResult s x r = .next t ∧ t.getV x = r ∧ t.pc = s.pc + 2 ∧ Quiet t ∧ Unchanged { regs := [x] } s t := by
  refine ⟨_, rfl, by simp, rfl, ⟨rfl, rfl⟩, unchanged_of_regs ?_ rfl⟩
  intro q hq
  simpa using State.getV_setV_of_ne s r (by simpa using hq)

/-- A flag result: VF holds the flag, whatever x is; Vx holds the result when it is not VF (R88). -/
theorem flagResult_next (s : State) (x : Nibble) (r f : Byte) :
    ∃ t, flagResult s x r f = .next t ∧ (x ≠ vf → t.getV x = r) ∧ t.getV vf = f ∧ t.pc = s.pc + 2 ∧ Quiet t ∧
      Unchanged { regs := [x, vf] } s t := by
  refine ⟨_, rfl, ?_, by simp, rfl, ⟨rfl, rfl⟩, unchanged_of_regs ?_ rfl⟩
  · intro hx
    simp [State.getV_setV, hx]
  · intro q hq
    simp only [List.mem_cons, List.not_mem_nil, or_false, not_or] at hq
    simp [State.getV_setV, hq.1, hq.2]

/-- A logic result: VF is cleared last under the toggle, and else written only as Vx (R88 to R91). -/
theorem logicResult_next (s : State) (x : Nibble) (r : Byte) :
    ∃ t, logicResult s x r = .next t ∧
      (∀ q, t.getV q = if s.quirks.logicVfReset = true ∧ q = vf then 0 else if q = x then r else s.getV q) ∧
      t.pc = s.pc + 2 ∧ Quiet t ∧
      Unchanged { regs := if s.quirks.logicVfReset then [x, vf] else [x] } s t := by
  refine ⟨_, rfl, ?_, by simp, ⟨rfl, rfl⟩, unchanged_of_regs ?_ ?_⟩
  · intro q
    simp [State.getV_logicFlag, State.getV_setV]
  · intro q hq
    by_cases h : s.quirks.logicVfReset <;>
      simp_all [State.getV_logicFlag, State.getV_setV]
  · unfold State.logicFlag
    split <;> rfl

/-- A skip: PC moves by 4 or 2, nothing else changes (R73). -/
theorem skip_next (s : State) (c : Bool) :
    ∃ t, done (s.skipIf c) [] = .next t ∧ t.pc = s.pc + (if c = true then 4 else 2) ∧ Quiet t ∧ Unchanged {} s t := by
  refine ⟨_, rfl, ?_, ⟨rfl, rfl⟩, unchanged_of_regs (fun _ _ => rfl) rfl⟩
  cases c <;> rfl

/-! ### Small operations in numbers -/

@[simp] theorem toNat_sumByte (a b : Byte) : (sumByte a b).toNat = (a.toNat + b.toNat) % 256 := by simp [sumByte]

@[simp] theorem toNat_diffByte (a b : Byte) : (diffByte a b).toNat = (a.toNat + 256 - b.toNat) % 256 := by
  simp [diffByte]

@[simp] theorem toNat_zextAddr (nnn : Addr) : (zextAddr nnn).toNat = nnn.toNat := by
  have := nnn.isLt
  simp [zextAddr]
  omega

@[simp] theorem toNat_zextByte (b : Byte) : (zextByte b).toNat = b.toNat := by
  have := b.isLt
  simp [zextByte]
  omega

@[simp] theorem toNat_byteOfKey (k : Nibble) : (byteOfKey k).toNat = k.toNat := by
  have := k.isLt
  simp [byteOfKey]
  omega

@[simp] theorem toNat_glyphAddress (b : Byte) : (glyphAddress b).toNat = 5 * b.toNat := by
  have := b.isLt
  simp [glyphAddress]
  omega

@[simp] theorem length_bcdDigits (b : Byte) : (bcdDigits b).length = 3 := rfl

@[simp] theorem length_regBytes (s : State) (x : Nibble) : (s.regBytes x).length = x.toNat + 1 := by
  have := x.isLt
  simp [State.regBytes, regCount]
  omega

/-- The k-th stored byte of Fx55 is Vk (R103). -/
theorem State.getElem_regBytes (s : State) (x k : Nibble) (h : k.toNat ≤ x.toNat) :
    (s.regBytes x)[k.toNat]? = some (s.getV k) := by
  have hk : k.toNat < 16 := k.isLt
  rw [State.regBytes, List.getElem?_take_of_lt (by simp [regCount]; omega),
    List.getElem?_eq_getElem (by simpa using hk)]
  simp [State.getV]

/-- The registers Fx65 leaves (R104). -/
theorem State.getV_loadedRegs (s : State) (x k : Nibble) :
    (s.setAllV (s.loadedRegs x)).getV k =
      if k.toNat ≤ x.toNat then s.readByte (s.i.toNat + k.toNat) else s.getV k := by
  simp [State.getV, State.setAllV, State.loadedRegs]

end Sys2Proof.Machine
end

