-- ==== Sys2Proof/Laws/PerInstr.lean ====
section
/-! SUPPORT. Per instruction: the word an instruction encodes to lies in the opcode table's row of that instruction
(R56, R59). -/

namespace Sys2Proof.Laws.TableRow

/-- The opcode table's name of an instruction (spec/opcode_table.json). -/
def mnemonicOf (i : Instr) : String :=
  match i with
  | .cls => "CLS"
  | .ret => "RET"
  | .jp _ => "JP"
  | .call _ => "CALL"
  | .seImm _ _ => "SE_imm"
  | .sneImm _ _ => "SNE_imm"
  | .seReg _ _ => "SE_reg"
  | .ldImm _ _ => "LD_imm"
  | .addImm _ _ => "ADD_imm"
  | .ldReg _ _ => "LD_reg"
  | .orReg _ _ => "OR"
  | .andReg _ _ => "AND"
  | .xorReg _ _ => "XOR"
  | .addReg _ _ => "ADD_reg"
  | .sub _ _ => "SUB"
  | .shr _ _ => "SHR"
  | .subn _ _ => "SUBN"
  | .shl _ _ => "SHL"
  | .sneReg _ _ => "SNE_reg"
  | .ldI _ => "LD_I"
  | .jpV0 _ => "JP_V0"
  | .rnd _ _ => "RND"
  | .drw _ _ _ => "DRW"
  | .skp _ => "SKP"
  | .sknp _ => "SKNP"
  | .ldVDt _ => "LD_V_DT"
  | .ldVK _ => "LD_V_K"
  | .ldDtV _ => "LD_DT_V"
  | .ldStV _ => "LD_ST_V"
  | .addI _ => "ADD_I"
  | .ldF _ => "LD_F"
  | .ldB _ => "LD_B"
  | .ldMemV _ => "LD_MEM_V"
  | .ldVMem _ => "LD_V_MEM"

/-- The instruction's word matches the table's row of its name. -/
def Statement (i : Instr) : Prop :=
  ∃ r ∈ opcodeTable, r.mnemonic = mnemonicOf i ∧ r.matches (encode i) = true

theorem cls : Statement .cls :=
  ⟨⟨"CLS", 0x00E0, 0xFFFF⟩, by decide, rfl, by decide⟩

theorem ret : Statement .ret :=
  ⟨⟨"RET", 0x00EE, 0xFFFF⟩, by decide, rfl, by decide⟩

theorem jp (nnn : Addr) : Statement (.jp nnn) :=
  ⟨⟨"JP", 0x1000, 0xF000⟩, by decide, rfl, by simp only [OpcodeRow.matches, encode, encodeNnn_mask]; decide⟩

theorem call (nnn : Addr) : Statement (.call nnn) :=
  ⟨⟨"CALL", 0x2000, 0xF000⟩, by decide, rfl, by simp only [OpcodeRow.matches, encode, encodeNnn_mask]; decide⟩

theorem seImm (x : Nibble) (kk : Byte) : Statement (.seImm x kk) :=
  ⟨⟨"SE_imm", 0x3000, 0xF000⟩, by decide, rfl, by simp only [OpcodeRow.matches, encode, encodeXkk_mask_family]; decide⟩

theorem sneImm (x : Nibble) (kk : Byte) : Statement (.sneImm x kk) :=
  ⟨⟨"SNE_imm", 0x4000, 0xF000⟩, by decide, rfl, by simp only [OpcodeRow.matches, encode, encodeXkk_mask_family]; decide⟩

theorem seReg (x y : Nibble) : Statement (.seReg x y) :=
  ⟨⟨"SE_reg", 0x5000, 0xF00F⟩, by decide, rfl, by simp only [OpcodeRow.matches, encode, encodeXyn_mask]; decide⟩

theorem ldImm (x : Nibble) (kk : Byte) : Statement (.ldImm x kk) :=
  ⟨⟨"LD_imm", 0x6000, 0xF000⟩, by decide, rfl, by simp only [OpcodeRow.matches, encode, encodeXkk_mask_family]; decide⟩

theorem addImm (x : Nibble) (kk : Byte) : Statement (.addImm x kk) :=
  ⟨⟨"ADD_imm", 0x7000, 0xF000⟩, by decide, rfl, by simp only [OpcodeRow.matches, encode, encodeXkk_mask_family]; decide⟩

theorem ldReg (x y : Nibble) : Statement (.ldReg x y) :=
  ⟨⟨"LD_reg", 0x8000, 0xF00F⟩, by decide, rfl, by simp only [OpcodeRow.matches, encode, encodeXyn_mask]; decide⟩

theorem orReg (x y : Nibble) : Statement (.orReg x y) :=
  ⟨⟨"OR", 0x8001, 0xF00F⟩, by decide, rfl, by simp only [OpcodeRow.matches, encode, encodeXyn_mask]; decide⟩

theorem andReg (x y : Nibble) : Statement (.andReg x y) :=
  ⟨⟨"AND", 0x8002, 0xF00F⟩, by decide, rfl, by simp only [OpcodeRow.matches, encode, encodeXyn_mask]; decide⟩

theorem xorReg (x y : Nibble) : Statement (.xorReg x y) :=
  ⟨⟨"XOR", 0x8003, 0xF00F⟩, by decide, rfl, by simp only [OpcodeRow.matches, encode, encodeXyn_mask]; decide⟩

theorem addReg (x y : Nibble) : Statement (.addReg x y) :=
  ⟨⟨"ADD_reg", 0x8004, 0xF00F⟩, by decide, rfl, by simp only [OpcodeRow.matches, encode, encodeXyn_mask]; decide⟩

theorem sub (x y : Nibble) : Statement (.sub x y) :=
  ⟨⟨"SUB", 0x8005, 0xF00F⟩, by decide, rfl, by simp only [OpcodeRow.matches, encode, encodeXyn_mask]; decide⟩

theorem shr (x y : Nibble) : Statement (.shr x y) :=
  ⟨⟨"SHR", 0x8006, 0xF00F⟩, by decide, rfl, by simp only [OpcodeRow.matches, encode, encodeXyn_mask]; decide⟩

theorem subn (x y : Nibble) : Statement (.subn x y) :=
  ⟨⟨"SUBN", 0x8007, 0xF00F⟩, by decide, rfl, by simp only [OpcodeRow.matches, encode, encodeXyn_mask]; decide⟩

theorem shl (x y : Nibble) : Statement (.shl x y) :=
  ⟨⟨"SHL", 0x800E, 0xF00F⟩, by decide, rfl, by simp only [OpcodeRow.matches, encode, encodeXyn_mask]; decide⟩

theorem sneReg (x y : Nibble) : Statement (.sneReg x y) :=
  ⟨⟨"SNE_reg", 0x9000, 0xF00F⟩, by decide, rfl, by simp only [OpcodeRow.matches, encode, encodeXyn_mask]; decide⟩

theorem ldI (nnn : Addr) : Statement (.ldI nnn) :=
  ⟨⟨"LD_I", 0xA000, 0xF000⟩, by decide, rfl, by simp only [OpcodeRow.matches, encode, encodeNnn_mask]; decide⟩

theorem jpV0 (nnn : Addr) : Statement (.jpV0 nnn) :=
  ⟨⟨"JP_V0", 0xB000, 0xF000⟩, by decide, rfl, by simp only [OpcodeRow.matches, encode, encodeNnn_mask]; decide⟩

theorem rnd (x : Nibble) (kk : Byte) : Statement (.rnd x kk) :=
  ⟨⟨"RND", 0xC000, 0xF000⟩, by decide, rfl, by simp only [OpcodeRow.matches, encode, encodeXkk_mask_family]; decide⟩

theorem drw (x y n : Nibble) : Statement (.drw x y n) :=
  ⟨⟨"DRW", 0xD000, 0xF000⟩, by decide, rfl, by simp only [OpcodeRow.matches, encode, encodeXyn_mask_family]; decide⟩

theorem skp (x : Nibble) : Statement (.skp x) :=
  ⟨⟨"SKP", 0xE09E, 0xF0FF⟩, by decide, rfl, by simp only [OpcodeRow.matches, encode, encodeXkk_mask]; decide⟩

theorem sknp (x : Nibble) : Statement (.sknp x) :=
  ⟨⟨"SKNP", 0xE0A1, 0xF0FF⟩, by decide, rfl, by simp only [OpcodeRow.matches, encode, encodeXkk_mask]; decide⟩

theorem ldVDt (x : Nibble) : Statement (.ldVDt x) :=
  ⟨⟨"LD_V_DT", 0xF007, 0xF0FF⟩, by decide, rfl, by simp only [OpcodeRow.matches, encode, encodeXkk_mask]; decide⟩

theorem ldVK (x : Nibble) : Statement (.ldVK x) :=
  ⟨⟨"LD_V_K", 0xF00A, 0xF0FF⟩, by decide, rfl, by simp only [OpcodeRow.matches, encode, encodeXkk_mask]; decide⟩

theorem ldDtV (x : Nibble) : Statement (.ldDtV x) :=
  ⟨⟨"LD_DT_V", 0xF015, 0xF0FF⟩, by decide, rfl, by simp only [OpcodeRow.matches, encode, encodeXkk_mask]; decide⟩

theorem ldStV (x : Nibble) : Statement (.ldStV x) :=
  ⟨⟨"LD_ST_V", 0xF018, 0xF0FF⟩, by decide, rfl, by simp only [OpcodeRow.matches, encode, encodeXkk_mask]; decide⟩

theorem addI (x : Nibble) : Statement (.addI x) :=
  ⟨⟨"ADD_I", 0xF01E, 0xF0FF⟩, by decide, rfl, by simp only [OpcodeRow.matches, encode, encodeXkk_mask]; decide⟩

theorem ldF (x : Nibble) : Statement (.ldF x) :=
  ⟨⟨"LD_F", 0xF029, 0xF0FF⟩, by decide, rfl, by simp only [OpcodeRow.matches, encode, encodeXkk_mask]; decide⟩

theorem ldB (x : Nibble) : Statement (.ldB x) :=
  ⟨⟨"LD_B", 0xF033, 0xF0FF⟩, by decide, rfl, by simp only [OpcodeRow.matches, encode, encodeXkk_mask]; decide⟩

theorem ldMemV (x : Nibble) : Statement (.ldMemV x) :=
  ⟨⟨"LD_MEM_V", 0xF055, 0xF0FF⟩, by decide, rfl, by simp only [OpcodeRow.matches, encode, encodeXkk_mask]; decide⟩

theorem ldVMem (x : Nibble) : Statement (.ldVMem x) :=
  ⟨⟨"LD_V_MEM", 0xF065, 0xF0FF⟩, by decide, rfl, by simp only [OpcodeRow.matches, encode, encodeXkk_mask]; decide⟩

end Sys2Proof.Laws.TableRow
end

