-- ==== Sys2Proof/Laws/Step.lean ====
section
/-! SUPPORT. What an instruction and a step can do, said once: the inversions every invariant is derived from. -/

namespace Sys2Proof.Machine

/-- How an instruction can end: it completes with the fault record as it was, at most one request and no fault outcome;
or it takes a fault on the state as it found it; or it stops on an SP the stack has no entry for. -/
inductive Ends (s : State) : Host.Outcome State Fault Refusal → Prop where
  | completes (t : State) (hf : t.fault = s.fault) (hq : t.quirks = s.quirks) (hp : t.platform = s.platform)
      (hl : t.requests.length ≤ 1)
      (ho : t.outcome = some .advanced ∨ t.outcome = some .awaitingInput ∧ t.requests = []) : Ends s (.next t)
  | faults (c : FaultCause) (n : Nat) : Ends s (raiseFault s c n)
  | stops (h : 16 < s.sp.toNat) : Ends s (.fault (.stackPointerInvalid s.sp))

theorem Ends.done {s t : State} {reqs : List Request} (hf : t.fault = s.fault) (hq : t.quirks = s.quirks)
    (hp : t.platform = s.platform) (hl : reqs.length ≤ 1) : Ends s (done t reqs) :=
  .completes _ hf hq hp hl (.inl rfl)

/-- What any instruction can do. -/
theorem exec_ends (i : Instr) (s : State) : Ends s (exec i s) := by
  cases i
  case ret =>
    simp only [exec, execRet]
    split
    · exact .faults _ _
    · split
      · apply Ends.done <;> simp
      · exact .stops (by omega)
  case call nnn =>
    simp only [exec, execCall]
    split
    · exact .faults _ _
    · next h16 =>
      split
      · apply Ends.done <;> simp
      · have : s.sp.toNat ≠ 16 := fun h => h16 (BitVec.eq_of_toNat_eq h)
        exact .stops (by omega)
  case skp x =>
    simp only [exec, execSkp, skipOnKey]
    split
    · apply Ends.done <;> simp
    · exact .faults _ _
  case sknp x =>
    simp only [exec, execSknp, skipOnKey]
    split
    · apply Ends.done <;> simp
    · exact .faults _ _
  case ldVK x =>
    simp only [exec, execLdVK]
    split
    · exact .completes _ rfl rfl rfl (Nat.zero_le _) (.inr ⟨rfl, rfl⟩)
    · apply Ends.done <;> simp
  case drw x y n =>
    simp only [exec, execDrw]
    split
    · exact .faults _ _
    · simp only [drawWith]
      apply Ends.done <;> simp
  case ldB x =>
    simp only [exec, execLdB]
    split
    · exact .faults _ _
    · apply Ends.done <;> simp
  case ldMemV x =>
    simp only [exec, execLdMemV]
    split
    · exact .faults _ _
    · apply Ends.done <;> simp
  case ldVMem x =>
    simp only [exec, execLdVMem]
    split
    · exact .faults _ _
    · apply Ends.done <;> simp
  all_goals
    simp only [exec, execCls, execJp, execSeImm, execSneImm, execSeReg, execSneReg, execJpV0, execLdImm, execAddImm,
      execLdReg, execOrReg, execAndReg, execXorReg, execAddReg, execSub, execShr, execSubn, execShl, execRnd, rndWith,
      loadResult, logicResult, flagResult, execLdI, execAddI, execLdF, execLdVDt, execLdDtV, execLdStV]
    apply Ends.done <;> simp

/-- What any step of an unfaulted state can do, in R116's order: a fetch fault, an unrecognized word, or an instruction
fetched from inside the window. -/
theorem step_cases {s : State} (hf : s.fault = none) :
    (s.pcInWindow = false ∧ step s = raiseFault s .pcOutOfRange s.pc.toNat) ∨
    (s.pcInWindow = true ∧ (∃ e, decode s.fetchWord = .error e) ∧ step s = unrecognized s) ∨
    (s.pcInWindow = true ∧ ∃ i, decode s.fetchWord = .ok i ∧ step s = exec i s) := by
  unfold step
  rw [hf]
  cases hw : s.pcInWindow with
  | false => exact .inl ⟨rfl, rfl⟩
  | true =>
    cases hd : decode s.fetchWord with
    | error e => exact .inr (.inl ⟨rfl, ⟨e, rfl⟩, rfl⟩)
    | ok i => exact .inr (.inr ⟨rfl, i, rfl, rfl⟩)

/-- A step that answers a next state started from an unfaulted one (R68). -/
theorem fault_none_of_step {s t : State} (h : step s = .next t) : s.fault = none := by
  unfold step at h
  split at h
  · cases h
  · assumption

/-- The window of R69 in numbers. -/
theorem State.pcInWindow_iff (s : State) :
    s.pcInWindow = true ↔ s.platform.pcMin.toNat ≤ s.pc.toNat ∧ s.pc.toNat + 1 ≤ 0xFFF := by
  simp [State.pcInWindow, BitVec.le_def]

/-- The fetched word in numbers: big-endian (R42, R69). -/
theorem State.toNat_fetchWord (s : State) :
    s.fetchWord.toNat = (s.readByte s.pc.toNat).toNat * 256 + (s.readByte (s.pc.toNat + 1)).toNat := by
  unfold State.fetchWord wordOfBytes
  have h := (s.readByte (s.pc.toNat + 1)).isLt
  rw [BitVec.toNat_append, Nat.shiftLeft_eq, Nat.mul_comm, ← Nat.two_pow_add_eq_or_of_lt h, Nat.mul_comm]

end Sys2Proof.Machine
end

