-- ==== Sys2Proof/Tests/Slice0.lean ====
section
/-! SUPPORT. Tests of one step each, the smoke tests of the well-formedness checks, and a witness for the hypotheses of
every statement. Expected values are the spec's: the words of 30_encoding.md R59 to R64, and the rows of
95_test_vectors.md named in each section. -/

namespace Sys2Proof.Machine.Test

/-! ## Every constructor's word, written out from its pattern (R59 to R64) -/

theorem test_decode_cls : decode 0x00E0 = .ok (.cls) ∧ encode (.cls) = 0x00E0 := by decide
theorem test_decode_ret : decode 0x00EE = .ok (.ret) ∧ encode (.ret) = 0x00EE := by decide
theorem test_decode_jp : decode 0x1234 = .ok (.jp 0x234) ∧ encode (.jp 0x234) = 0x1234 := by decide
theorem test_decode_call : decode 0x2210 = .ok (.call 0x210) ∧ encode (.call 0x210) = 0x2210 := by decide
theorem test_decode_seImm : decode 0x332A = .ok (.seImm 3 0x2A) ∧ encode (.seImm 3 0x2A) = 0x332A := by decide
theorem test_decode_sneImm : decode 0x432B = .ok (.sneImm 3 0x2B) ∧ encode (.sneImm 3 0x2B) = 0x432B := by decide
theorem test_decode_seReg : decode 0x5120 = .ok (.seReg 1 2) ∧ encode (.seReg 1 2) = 0x5120 := by decide
theorem test_decode_ldImm : decode 0x6A2B = .ok (.ldImm 0xA 0x2B) ∧ encode (.ldImm 0xA 0x2B) = 0x6A2B := by decide
theorem test_decode_addImm : decode 0x71FF = .ok (.addImm 1 0xFF) ∧ encode (.addImm 1 0xFF) = 0x71FF := by decide
theorem test_decode_ldReg : decode 0x8120 = .ok (.ldReg 1 2) ∧ encode (.ldReg 1 2) = 0x8120 := by decide
theorem test_decode_orReg : decode 0x8121 = .ok (.orReg 1 2) ∧ encode (.orReg 1 2) = 0x8121 := by decide
theorem test_decode_andReg : decode 0x8122 = .ok (.andReg 1 2) ∧ encode (.andReg 1 2) = 0x8122 := by decide
theorem test_decode_xorReg : decode 0x8123 = .ok (.xorReg 1 2) ∧ encode (.xorReg 1 2) = 0x8123 := by decide
theorem test_decode_addReg : decode 0x8014 = .ok (.addReg 0 1) ∧ encode (.addReg 0 1) = 0x8014 := by decide
theorem test_decode_sub : decode 0x8015 = .ok (.sub 0 1) ∧ encode (.sub 0 1) = 0x8015 := by decide
theorem test_decode_shr : decode 0x8106 = .ok (.shr 1 0) ∧ encode (.shr 1 0) = 0x8106 := by decide
theorem test_decode_subn : decode 0x8017 = .ok (.subn 0 1) ∧ encode (.subn 0 1) = 0x8017 := by decide
theorem test_decode_shl : decode 0x810E = .ok (.shl 1 0) ∧ encode (.shl 1 0) = 0x810E := by decide
theorem test_decode_sneReg : decode 0x9120 = .ok (.sneReg 1 2) ∧ encode (.sneReg 1 2) = 0x9120 := by decide
theorem test_decode_ldI : decode 0xA300 = .ok (.ldI 0x300) ∧ encode (.ldI 0x300) = 0xA300 := by decide
theorem test_decode_jpV0 : decode 0xBFFF = .ok (.jpV0 0xFFF) ∧ encode (.jpV0 0xFFF) = 0xBFFF := by decide
theorem test_decode_rnd : decode 0xC30F = .ok (.rnd 3 0x0F) ∧ encode (.rnd 3 0x0F) = 0xC30F := by decide
theorem test_decode_drw : decode 0xD015 = .ok (.drw 0 1 5) ∧ encode (.drw 0 1 5) = 0xD015 := by decide
theorem test_decode_skp : decode 0xE59E = .ok (.skp 5) ∧ encode (.skp 5) = 0xE59E := by decide
theorem test_decode_sknp : decode 0xE5A1 = .ok (.sknp 5) ∧ encode (.sknp 5) = 0xE5A1 := by decide
theorem test_decode_ldVDt : decode 0xF307 = .ok (.ldVDt 3) ∧ encode (.ldVDt 3) = 0xF307 := by decide
theorem test_decode_ldVK : decode 0xF00A = .ok (.ldVK 0) ∧ encode (.ldVK 0) = 0xF00A := by decide
theorem test_decode_ldDtV : decode 0xF015 = .ok (.ldDtV 0) ∧ encode (.ldDtV 0) = 0xF015 := by decide
theorem test_decode_ldStV : decode 0xF118 = .ok (.ldStV 1) ∧ encode (.ldStV 1) = 0xF118 := by decide
theorem test_decode_addI : decode 0xF01E = .ok (.addI 0) ∧ encode (.addI 0) = 0xF01E := by decide
theorem test_decode_ldF : decode 0xF229 = .ok (.ldF 2) ∧ encode (.ldF 2) = 0xF229 := by decide
theorem test_decode_ldB : decode 0xF033 = .ok (.ldB 0) ∧ encode (.ldB 0) = 0xF033 := by decide
theorem test_decode_ldMemV : decode 0xF355 = .ok (.ldMemV 3) ∧ encode (.ldMemV 3) = 0xF355 := by decide
theorem test_decode_ldVMem : decode 0xF265 = .ok (.ldVMem 2) ∧ encode (.ldVMem 2) = 0xF265 := by decide

/-! ## Words that are refused (L2-S2 to L2-S9), and bytes that are too few -/

theorem test_decode_family0 : decode 0x0000 = .error (.family0 0x0000) ∧ decode 0x00E1 = .error (.family0 0x00E1) := by
  decide

theorem test_decode_low_nibble : decode 0x5001 = .error (.compareLowNibble 0x5001) ∧
    decode 0x9121 = .error (.compareLowNibble 0x9121) := by decide

theorem test_decode_alu_subcode : decode 0x8128 = .error (.aluSubcode 0x8128) ∧
    decode 0x812F = .error (.aluSubcode 0x812F) := by decide

theorem test_decode_key_subcode : decode 0xE100 = .error (.keySubcode 0xE100) := by decide

theorem test_decode_misc_subcode : decode 0xF164 = .error (.miscSubcode 0xF164) := by decide

theorem test_decode_big_endian : decodeBytes [0x6A, 0x2B, 0xFF] = .ok (.ldImm 0xA 0x2B, [0xFF]) := by decide

theorem test_decode_truncated : decodeBytes [0x6A] = .error .truncated := by decide

/-! ## Smoke tests of the checks: an ill-formed term each, refused -/

theorem test_recognized_refuses : recognized 0x5001 = false ∧ recognized 0x0123 = false ∧ recognized 0x8128 = false := by
  decide

theorem test_romFits_refuses : romFits (List.replicate 3585 0) = false ∧ romFits (List.replicate 3584 0) = true := by
  unfold romFits; rw [List.length_replicate, List.length_replicate]; decide

theorem test_isKey_refuses : isKey 0x10 = false ∧ isKey 0x0F = true := by decide

theorem test_breakpointOk_refuses : breakpointOk 0x201 = false ∧ breakpointOk 0x1FE = false ∧
    breakpointOk 0xFFE = true := by decide

theorem test_memory_wf_refuses : Memory.wf [(0x300, 1), (0x300, 2)] = false ∧ Memory.wf [(0x301, 1), (0x300, 2)] = false ∧
    Memory.wf [(0x300, 0)] = false ∧ Memory.wf [(4096, 1)] = false := by decide

/-- The opcode table's rows are pairwise disjoint (R59): two rows differ on a bit both of them fix. -/
theorem test_rows_disjoint : opcodeTable.Pairwise (fun r r' => (r.pattern ^^^ r'.pattern) &&& r.mask &&& r'.mask ≠ 0) := by
  decide

/-! ## The convention of 95_test_vectors.md -/

/-- PC = 0x300, VF = 0x55, all else as after reset. -/
def vec : State := (State.reset.setPc 0x300).setV vf 0x55

/-- The next state of an outcome. -/
def after (o : Host.Outcome State Fault Refusal) : Option State :=
  match o with
  | .next t => some t
  | .fault _ => none
  | .refused _ => none

/-- One step of the word stored at PC. -/
def run (s : State) (w : Nat) : Option State := after (step (s.withFetchWord 16 w))

/-- `s` with Q.shift_vx, Q.ls_keep_i and Q.logic_vf_reset as given. -/
def under (shiftVx lsKeepI logicVfReset : Bool) (s : State) : State :=
  { s with quirks := { shiftVx := shiftVx, lsKeepI := lsKeepI, wrap := false, logicVfReset := logicVfReset } }

/-! ## One step each (95_test_vectors.md L2) -/

/-- L2-S1. -/
theorem test_unrecognized :
    (run (vec) 0x5001).map (fun t => (t.pc, t.outcome, t.v == vec.v)) =
      some (0x302, some StepOutcome.invalid, true) := by decide

/-- L2-S11. -/
theorem test_fetch_window_top :
    (run (vec.setPc 0xFFF) 0x6A01).map (fun t => (t.pc, t.outcome)) =
      some (0xFFF, some (.fault .pcOutOfRange 0xFFF)) := by decide

/-- L2-S10. -/
theorem test_fetch_window_low :
    (run (vec.setPc 0x1FE) 0x6A01).map (fun t => (t.pc, t.outcome)) =
      some (0x1FE, some (.fault .pcOutOfRange 0x1FE)) := by decide

/-- L2-S12. -/
theorem test_fetch_last_word :
    (run (vec.setPc 0xFFE) 0x6A01).map (fun t => (t.getV 0xA, t.pc)) =
      some (0x01, 0x1000) := by decide

/-- L2-S14. -/
theorem test_fetch_odd :
    (run (vec.setPc 0x201) 0x6107).map (fun t => (t.getV 1, t.pc)) =
      some (0x07, 0x203) := by decide

/-- L2-S16. -/
theorem test_pc_min_zero :
    (run ({ vec.setPc 0x100 with platform := ⟨0, .allow⟩ }) 0x6005).map (fun t => (t.getV 0, t.pc)) =
      some (5, 0x102) := by decide

/-- L2-D1. -/
theorem test_cls :
    (run (vec) 0x00E0).map (fun t => (t.pc, t.requests, t.v == vec.v)) =
      some (0x302, [Request.clearScreen], true) := by decide

/-- L2-C7. -/
theorem test_ret :
    (run ((vec.push (by decide) 0x204)) 0x00EE).map (fun t => (t.sp, t.pc, t.stack[0])) =
      some (0, 0x206, 0x204) := by decide

/-- L2-C8. -/
theorem test_ret_underflow :
    (run (vec) 0x00EE).map (fun t => (t.fault, t.pc)) =
      some (some ⟨.stackUnderflow, 0x300, 0x300⟩, 0x300) := by decide

/-- L2-C1. -/
theorem test_jp :
    (run (vec.setPc 0x200) 0x1234).map (fun t => (t.pc)) =
      some (0x234) := by decide

/-- L2-C2. -/
theorem test_jp_self :
    (run (vec.setPc 0x200) 0x1200).map (fun t => (t.pc)) =
      some (0x200) := by decide

/-- L2-C5. -/
theorem test_call :
    (run ({ vec with sp := 15 }) 0x2400).map (fun t => (t.stack[15], t.sp, t.pc)) =
      some (0x300, 16, 0x400) := by decide

/-- L2-C6. -/
theorem test_call_overflow :
    (run ({ vec with sp := 16 }) 0x2400).map (fun t => (t.fault, t.sp, t.pc)) =
      some (some ⟨.stackOverflow, 0x300, 0x300⟩, 16, 0x300) := by decide

/-- L2-C13. -/
theorem test_se_imm :
    (run (vec) 0x3F55).map (fun t => (t.pc)) =
      some (0x304) := by decide

/-- L2-C10. -/
theorem test_se_imm_not :
    (run (vec.setV 3 0x2A) 0x332B).map (fun t => (t.pc)) =
      some (0x302) := by decide

/-- L2-C11. -/
theorem test_sne_imm :
    (run (vec.setV 3 0x2A) 0x432A).map (fun t => (t.pc)) =
      some (0x302) := by decide

/-- L2-C12. -/
theorem test_sne_imm_skip :
    (run (vec.setV 3 0x2A) 0x432B).map (fun t => (t.pc)) =
      some (0x304) := by decide

/-- L2-C14. -/
theorem test_se_reg :
    (run ((vec.setV 1 7).setV 2 7) 0x5120).map (fun t => (t.pc)) =
      some (0x304) := by decide

/-- L2-C15. -/
theorem test_se_reg_not :
    (run ((vec.setV 1 7).setV 2 8) 0x5120).map (fun t => (t.pc)) =
      some (0x302) := by decide

/-- L2-C17. -/
theorem test_sne_reg :
    (run ((vec.setV 1 7).setV 2 8) 0x9120).map (fun t => (t.pc)) =
      some (0x304) := by decide

/-- L2-C19. -/
theorem test_sne_reg_same :
    (run (vec.setV 1 7) 0x9110).map (fun t => (t.pc)) =
      some (0x302) := by decide

/-- L2-C21. -/
theorem test_jp_v0 :
    (run (vec.setV 0 0xFF) 0xBFFF).map (fun t => (t.pc)) =
      some (0x10FE) := by decide

/-- L2-C23. -/
theorem test_jp_v0_not_vx :
    (run (vec.setV 5 0x10) 0xB300).map (fun t => (t.pc)) =
      some (0x300) := by decide

/-- L2-A1. -/
theorem test_ld_imm :
    (run (vec) 0x6A2B).map (fun t => (t.getV 0xA, t.getV vf, t.pc)) =
      some (0x2B, 0x55, 0x302) := by decide

/-- L2-A2. -/
theorem test_ld_imm_vf :
    (run (vec) 0x6F01).map (fun t => (t.getV vf)) =
      some (0x01) := by decide

/-- L2-A3. -/
theorem test_add_imm_no_flag :
    (run (vec.setV 1 0xFE) 0x7105).map (fun t => (t.getV 1, t.getV vf)) =
      some (0x03, 0x55) := by decide

/-- L2-A6. -/
theorem test_ld_reg :
    (run (vec.setV 2 0x99) 0x8120).map (fun t => (t.getV 1, t.getV vf)) =
      some (0x99, 0x55) := by decide

/-- L2-A7. -/
theorem test_or :
    (run ((vec.setV 1 0x0F).setV 2 0xF0) 0x8121).map (fun t => (t.getV 1, t.getV vf)) =
      some (0xFF, 0x00) := by decide

/-- L2-A14. -/
theorem test_or_vf_last :
    (run (vec.setV 2 0x0A) 0x8F21).map (fun t => (t.getV vf)) =
      some (0x00) := by decide

/-- L2-A10. -/
theorem test_and_vf_kept :
    (run (under false false false ((vec.setV 1 0x3C).setV 2 0x0F)) 0x8122).map (fun t => (t.getV 1, t.getV vf)) =
      some (0x0C, 0x55) := by decide

/-- L2-A9. -/
theorem test_and :
    (run ((vec.setV 1 0x3C).setV 2 0x0F) 0x8122).map (fun t => (t.getV 1, t.getV vf)) =
      some (0x0C, 0x00) := by decide

/-- L2-A12. -/
theorem test_xor_same :
    (run (vec.setV 1 0xAB) 0x8113).map (fun t => (t.getV 1, t.getV vf)) =
      some (0x00, 0x00) := by decide

/-- L2-A11. -/
theorem test_xor :
    (run ((vec.setV 1 0xFF).setV 2 0x0F) 0x8123).map (fun t => (t.getV 1, t.getV vf)) =
      some (0xF0, 0x00) := by decide

/-- L2-A16. -/
theorem test_add_reg_wraps :
    (run ((vec.setV 0 0xFF).setV 1 0x01) 0x8014).map (fun t => (t.getV 0, t.getV vf, t.pc)) =
      some (0x00, 0x01, 0x302) := by decide

/-- L2-A20. -/
theorem test_add_reg_vf_last :
    (run ((vec.setV vf 0xFF).setV 1 0x01) 0x8F14).map (fun t => (t.getV vf)) =
      some (0x01) := by decide

/-- L2-A22. -/
theorem test_sub_borrow :
    (run ((vec.setV 0 0x10).setV 1 0x20) 0x8015).map (fun t => (t.getV 0, t.getV vf)) =
      some (0xF0, 0x00) := by decide

/-- L2-A23. -/
theorem test_sub_equal :
    (run ((vec.setV 0 0x20).setV 1 0x20) 0x8015).map (fun t => (t.getV 0, t.getV vf)) =
      some (0x00, 0x01) := by decide

/-- L2-A30. -/
theorem test_shr_source_vy :
    (run ((vec.setV 0 0xF0).setV 1 0x03) 0x8106).map (fun t => (t.getV 1, t.getV 0, t.getV vf)) =
      some (0x78, 0xF0, 0x00) := by decide

/-- L2-A29. -/
theorem test_shr_source_vx :
    (run (under true false true (vec.setV 1 0x03)) 0x8106).map (fun t => (t.getV 1, t.getV vf)) =
      some (0x01, 0x01) := by decide

/-- L2-A26. -/
theorem test_subn :
    (run ((vec.setV 0 0x20).setV 1 0x10) 0x8017).map (fun t => (t.getV 0, t.getV vf)) =
      some (0xF0, 0x00) := by decide

/-- L2-A27. -/
theorem test_subn_no_borrow :
    (run ((vec.setV 0 0x10).setV 1 0x20) 0x8017).map (fun t => (t.getV 0, t.getV vf)) =
      some (0x10, 0x01) := by decide

/-- L2-A32. -/
theorem test_shl_source_vy :
    (run ((vec.setV 0 0xF0).setV 1 0x20) 0x810E).map (fun t => (t.getV 1, t.getV vf)) =
      some (0xE0, 0x01) := by decide

/-- L2-A36. -/
theorem test_shl_vf_last :
    (run (vec.setV 0 0x40) 0x8F0E).map (fun t => (t.getV vf)) =
      some (0x00) := by decide

/-- L2-M1. -/
theorem test_ld_i :
    (run (vec) 0xA300).map (fun t => (t.i, t.pc)) =
      some (0x300, 0x302) := by decide

/-- L2-M5. -/
theorem test_add_i_flag :
    (run ((vec.setI 0x0FFF).setV 0 0x01) 0xF01E).map (fun t => (t.i, t.getV vf)) =
      some (0x1000, 1) := by decide

/-- L2-M7. -/
theorem test_add_i_wraps :
    (run ((vec.setI 0xFFFF).setV 0 0x02) 0xF01E).map (fun t => (t.i, t.getV vf)) =
      some (0x0001, 0) := by decide

/-- L2-M8. -/
theorem test_ld_f :
    (run (vec.setV 0 0xFF) 0xF029).map (fun t => (t.i)) =
      some (0x4FB) := by decide

/-- L2-M9, at 0x400. -/
theorem test_ld_b :
    (run ((vec.setI 0x400).setV 0 254) 0xF033).map (fun t => (Memory.readBytes t.mem 0x400 3, t.i)) =
      some ([2, 5, 4], 0x400) := by decide

/-- L2-M11. -/
theorem test_ld_b_fault :
    (run ((vec.setI 0xFFE).setV 0 1) 0xF033).map (fun t => (t.fault, t.readByte 0xFFE)) =
      some (some ⟨.memOutOfRange, 0x1000, 0x300⟩, 0) := by decide

/-- L2-M12, at 0x400. -/
theorem test_ld_mem_v :
    (run (((vec.setI 0x400).setV 0 1).setV 3 4) 0xF355).map (fun t => (Memory.readBytes t.mem 0x400 5, t.i)) =
      some ([1, 0, 0, 4, 0], 0x404) := by decide

/-- L2-M18. -/
theorem test_ld_mem_v_low_fault :
    (run ({ (vec.setI 0x100).setV 0 0x99 with platform := ⟨0x200, .fault⟩ }) 0xF055).map (fun t => (t.fault, t.readByte 0x100)) =
      some (some ⟨.lowWriteProtected, 0x100, 0x300⟩, 0) := by decide

/-- L2-M22, three registers. -/
theorem test_ld_v_mem :
    (run ((vec.setI 0x000)) 0xF265).map (fun t => (t.getV 0, t.getV 1, t.getV 2, t.getV 3, t.i)) =
      some (0xF0, 0x90, 0x90, 0, 0x003) := by decide

/-- L2-M20 and L2-M22. -/
theorem test_ld_v_mem_keep_i :
    (run (under false true true (vec.setI 0x000)) 0xF065).map (fun t => (t.getV 0, t.i)) =
      some (0xF0, 0x000) := by decide

/-- L2-D7. -/
theorem test_drw_fault :
    (run (vec.setI 0xFF2) 0xD01F).map (fun t => (t.fault, t.requests, t.draws)) =
      some (some ⟨.memOutOfRange, 0x1000, 0x300⟩, [], 0) := by decide

/-- L2-D9. -/
theorem test_skp :
    (run ({ vec.setV 5 3 with keyStates := vec.keyStates.set 3 true }) 0xE59E).map (fun t => (t.pc)) =
      some (0x304) := by decide

/-- L2-D13. -/
theorem test_skp_fault :
    (run (vec.setV 5 0x10) 0xE59E).map (fun t => (t.fault)) =
      some (some ⟨.keyOutOfRange, 0x10, 0x300⟩) := by decide

/-- L2-D11. -/
theorem test_sknp :
    (run (vec.setV 5 3) 0xE5A1).map (fun t => (t.pc)) =
      some (0x304) := by decide

/-- L2-D12. -/
theorem test_sknp_down :
    (run ({ vec.setV 5 3 with keyStates := vec.keyStates.set 3 true }) 0xE5A1).map (fun t => (t.pc)) =
      some (0x302) := by decide

/-- L2-D15. -/
theorem test_ld_v_dt :
    (run (vec.setDt 0x3C) 0xF307).map (fun t => (t.getV 3, t.dt)) =
      some (0x3C, 0x3C) := by decide

/-- L2-D16. -/
theorem test_ld_v_k_waits :
    (run (vec) 0xF00A).map (fun t => (t.pc, t.outcome)) =
      some (0x300, some .awaitingInput) := by decide

/-- L2-D18. -/
theorem test_ld_v_k_zero :
    (run ((vec.setV 0 9).setLast (some 0)) 0xF00A).map (fun t => (t.getV 0, t.pc, t.lastKey)) =
      some (0, 0x302, some 0) := by decide

/-- L2-D20. -/
theorem test_ld_dt_v :
    (run (vec.setV 0 0x3C) 0xF015).map (fun t => (t.dt, t.st)) =
      some (0x3C, 0) := by decide

/-- L2-D21. -/
theorem test_ld_st_v :
    (run (vec.setV 1 0x05) 0xF118).map (fun t => (t.st, t.dt)) =
      some (0x05, 0) := by decide

/-- L2-A37: the drawn byte is an argument of the meaning's body. -/
theorem test_rnd : (after (rndWith 0xA7 3 0x0F vec)).map (fun t => (t.getV 3, t.getV vf, t.draws, t.pc)) =
    some (0x07, 0x55, 1, 0x302) := by decide

/-- L2-D3 and L2-D5: the collision answer is an argument of the meaning's body, and VF is passed as a coordinate first. -/
theorem test_drw : (after (drawWith true [0xF0] 0xF 0xF 1 (vec.setV vf 5))).map (fun t => (t.getV vf, t.requests)) =
    some (1, [.drawSprite [0xF0] 5 5 1 false]) := by decide

/-- L2-S15: a state with a fault recorded has no step. -/
theorem test_faulted_stops : after (step (vec.setFault ⟨.stackOverflow, 0x300, 0x300⟩)) = none := by decide

/-- L2-T2 and L2-T4. -/
theorem test_tick : (tick (vec.setSt 1)).st = 0 ∧ (tick (vec.setSt 1)).dt = 0 ∧ (tick (vec.setDt 0xFF)).dt = 0xFE := by decide

/-- L2-R4: after reset, memory at PC is 00 00. -/
theorem test_reset_step : (after (step State.reset)).map (fun t => (t.pc, t.outcome)) = some (0x202, some .invalid) := by
  decide

/-- L1-5: load 00 E0, step once. -/
theorem test_load_and_step : (after (runSchedule [.loadRom [0x00, 0xE0], .step Config.quirks] State.reset)).map
    (fun t => (t.pc, t.requests)) = some (0x202, [.clearScreen]) := by decide

/-- The host's question on one row: decoding its word and running it first after reset. -/
theorem test_table_word : decodeTableWord 16 0x6A2B = some (.ldImm 0xA 0x2B) ∧
    (run State.reset 0x6A2B).map (fun t => t.getV 0xA) = some 0x2B := by decide

/-- R122: a set pixel drawn again is unset and collides; bit 7 is the leftmost pixel. -/
theorem test_display_xor : (Display.conventional.draw [0x80] 65 33 false).1.lit = [(1, 1)] ∧
    ((Display.conventional.draw [0x80] 1 1 false).1.draw [0x80] 1 1 false) = (Display.conventional, true) := by decide

/-- R122: a pixel beyond the edge is clipped, or wraps under the toggle. -/
theorem test_display_edge : (Display.conventional.draw [0x41] 63 0 false).1.lit = [] ∧
    (Display.conventional.draw [0x40] 63 0 true).1.lit = [(0, 0)] := by decide

/-- R134: the category of the fetched word, and a breakpoint. -/
theorem test_debug : (vec.withFetchWord 16 0xE59E).fetchedCategory = some .keySkip ∧
    (DebugController.mk [.draw] [0x300]).wantsPause vec = true ∧ (DebugController.mk [.draw] []).wantsPause vec = false := by
  decide

/-! ## Witnesses: a state that meets the hypotheses of each statement -/

/-- `vec` with an instruction's word at PC. -/
def at' (w : Nat) : State := vec.withFetchWord 16 w

/-- `vec` with I as given and LOW_WRITE = fault. -/
def protectedVec (i : Word) : State := { vec.setI i with platform := ⟨0x200, .fault⟩ }

/-- Decoding has instructions to decode, and rows to match. -/
theorem witness_EncodeOfDecodeIsTheWord : decode 0xD015 = .ok (.drw 0 1 5) := by decide

theorem witness_DecoderAcceptsExactlyTheTableWords :
    recognized 0xF265 = true ∧ ∃ r ∈ opcodeTable, r.matches 0xF265 = true := by decide

/-- An unfaulted state inside the window whose bytes are an instruction's word, at both ends of the window. -/
theorem witness_StepRunsTheDecodedInstruction :
    ((at' 0x6A2B).fault = none ∧ (at' 0x6A2B).platform.pcMin.toNat ≤ (at' 0x6A2B).pc.toNat ∧
      (at' 0x6A2B).pc.toNat + 1 ≤ 0xFFF ∧
      (encode (.ldImm 0xA 0x2B)).toNat =
        ((at' 0x6A2B).readByte (at' 0x6A2B).pc.toNat).toNat * 256 + ((at' 0x6A2B).readByte ((at' 0x6A2B).pc.toNat + 1)).toNat) ∧
    (vec.setPc 0x200).pcInWindow = true ∧ (vec.setPc 0xFFE).pcInWindow = true := by decide

theorem witness_StoredInstructionRunsNext :
    vec.fault = none ∧ vec.platform.pcMin.toNat ≤ vec.pc.toNat ∧ vec.pc.toNat + 1 ≤ 0xFFF := by decide

theorem witness_UnrecognizedWordIsInvalid :
    (at' 0x5001).fault = none ∧ (at' 0x5001).pcInWindow = true ∧ recognized (at' 0x5001).fetchWord = false := by decide

/-- Each clause at the value next to the window's edge. -/
theorem witness_FetchOutsideTheWindowFaults :
    ((vec.setPc 0x1FF).fault = none ∧ (vec.setPc 0x1FF).pc.toNat < (vec.setPc 0x1FF).platform.pcMin.toNat) ∧
    ((vec.setPc 0xFFF).fault = none ∧ 0xFFF < (vec.setPc 0xFFF).pc.toNat + 1) := by decide

theorem witness_FaultedStateHasNoStep :
    (vec.setFault ⟨.keyOutOfRange, 16, 0x300⟩).fault = some ⟨.keyOutOfRange, 16, 0x300⟩ := by decide

theorem witness_EveryWellFormedStateSteps : State.WellFormed { vec with sp := 16 } ∧ vec.fault = none := by decide

/-- A step that records a fault: FaultsArePrecise and StepReportsAreSound. -/
theorem witness_FaultsArePrecise : ∃ t, step (at' 0x00EE) = .next t ∧ t.fault ≠ none := ⟨_, rfl, by decide⟩

theorem witness_StepReportsAreSound : ∃ t, step (at' 0x00E0) = .next t ∧ t.requests = [.clearScreen] := ⟨_, rfl, rfl⟩

/-- A well-formed, canonical, bounded state that steps, with a full stack and PC at the last fetchable word. -/
theorem witness_StepKeepsStateWellFormed :
    State.WellFormed { vec with sp := 16 } ∧ (at' 0x6A2B).WellFormed ∧ (at' 0x6A2B).Canonical ∧
    ∃ t, step (at' 0x6A2B) = .next t := ⟨by decide, by decide, by decide, _, rfl⟩

theorem witness_StepKeepsPcBounded : (vec.setPc 0x10FE).PcBounded ∧ (at' 0x6A2B).PcBounded ∧
    ∃ t, step (at' 0x6A2B) = .next t := by
  refine ⟨⟨by decide, by decide⟩, ⟨by decide, by decide⟩, _, rfl⟩

theorem witness_TransactionsKeepTheInvariants :
    vec.WellFormed ∧ vec.Canonical ∧ vec.PcBounded ∧ vec.ReportSound ∧ ∃ t, transact .tick vec = .next t := by
  refine ⟨by decide, by decide, ⟨by decide, by decide⟩, ?_, _, rfl⟩
  simp [State.ReportSound, vec, State.reset]

/-- Instructions that answer next states and meet each clause's exclusions. -/
theorem witness_OnlyTheNamedInstructionsWrite :
    (∃ t, exec (.ldB 0) (vec.setI 0x400) = .next t) ∧ storedBytes (vec.setI 0x400) (.ldB 0) = (0x400, 3) ∧
    (∀ x, Instr.ldB 0 ≠ .ldDtV x) ∧ (∀ x, Instr.ldB 0 ≠ .ldStV x) ∧
    (∀ nnn, Instr.ldB 0 ≠ .call nnn) ∧ Instr.ldB 0 ≠ .ret ∧ (∀ nnn, Instr.ldB 0 ≠ .ldI nnn) ∧
    (∀ x, Instr.ldB 0 ≠ .addI x ∧ Instr.ldB 0 ≠ .ldF x ∧ Instr.ldB 0 ≠ .ldMemV x ∧ Instr.ldB 0 ≠ .ldVMem x) ∧
    (∀ x kk, Instr.ldB 0 ≠ .rnd x kk) ∧ ∀ x y n, Instr.ldB 0 ≠ .drw x y n := by
  refine ⟨⟨_, rfl⟩, by decide, ?_⟩
  simp

theorem witness_OnlyTheListedRegistersAreWritten :
    (∃ t, exec (.ldVMem 4) vec = .next t) ∧ (5 : Nibble) ∉ writtenRegs vec.quirks (.ldVMem 4) ∧
    (4 : Nibble) ∈ writtenRegs vec.quirks (.ldVMem 4) := ⟨⟨_, rfl⟩, by decide, by decide⟩

theorem witness_SoundTimerIsNeverRead : ∃ t, exec (.ldStV 0) vec = .next t := ⟨_, rfl⟩

theorem witness_OnlyTheKeyInstructionsReadKeys :
    (∃ t, exec (.ldVK 0) vec = .next t) ∧ (∃ t, exec (.skp 0) vec = .next t) ∧ (∀ x, Instr.skp 0 ≠ .ldVK x) ∧
    ∀ x, Instr.ldVK 0 ≠ .skp x ∧ Instr.ldVK 0 ≠ .sknp x := by
  refine ⟨⟨_, rfl⟩, ⟨_, rfl⟩, ?_, ?_⟩
  · intro x h; cases h
  · intro x; constructor <;> intro h <;> cases h

/-- Words of every family a statement's encoding clause is about. -/
theorem witness_encoding_clauses :
    fieldFamily 0x1234 = 1 ∧ fieldFamily 0x2210 = 2 ∧ fieldFamily 0x332A = 3 ∧ fieldFamily 0x432B = 4 ∧
    (fieldFamily 0x5120 = 5 ∧ fieldN 0x5120 = 0 ∧ fieldFamily 0x5001 = 5 ∧ fieldN 0x5001 ≠ 0) ∧
    fieldFamily 0x6A2B = 6 ∧ fieldFamily 0x71FF = 7 ∧
    (fieldFamily 0x8120 = 8 ∧ fieldN 0x8120 = 0 ∧ fieldN 0x8121 = 1 ∧ fieldN 0x8122 = 2 ∧ fieldN 0x8123 = 3 ∧
      fieldN 0x8014 = 4 ∧ fieldN 0x8015 = 5 ∧ fieldN 0x8106 = 6 ∧ fieldN 0x8017 = 7 ∧ fieldN 0x810E = 0xE) ∧
    (fieldFamily 0x9120 = 9 ∧ fieldN 0x9120 = 0 ∧ fieldFamily 0x9121 = 9 ∧ fieldN 0x9121 ≠ 0) ∧
    fieldFamily 0xA300 = 0xA ∧ fieldFamily 0xBFFF = 0xB ∧ fieldFamily 0xC30F = 0xC ∧ fieldFamily 0xD015 = 0xD ∧
    (fieldFamily 0xE59E = 0xE ∧ fieldKk 0xE59E = 0x9E ∧ fieldKk 0xE5A1 = 0xA1) ∧
    (fieldFamily 0xF307 = 0xF ∧ fieldKk 0xF307 = 0x07 ∧ fieldKk 0xF00A = 0x0A ∧ fieldKk 0xF015 = 0x15 ∧
      fieldKk 0xF118 = 0x18 ∧ fieldKk 0xF01E = 0x1E ∧ fieldKk 0xF229 = 0x29 ∧ fieldKk 0xF033 = 0x33 ∧
      fieldKk 0xF355 = 0x55 ∧ fieldKk 0xF265 = 0x65) := by decide

/-- The inner hypotheses of JpSetsThePc: an unfaulted state and a target just below the window, or 0xFFF. -/
theorem witness_JpSetsThePc : vec.fault = none ∧ (0x1FF : Addr).toNat < vec.platform.pcMin.toNat := by decide

theorem witness_CallPushesAndJumps : (15 : Byte).toNat < 16 ∧ vec.sp.toNat < 16 := by decide

theorem witness_RetPopsAndReturns : (0 < (1 : Byte).toNat ∧ (1 : Byte).toNat ≤ 16) ∧
    0 < (16 : Byte).toNat ∧ (16 : Byte).toNat ≤ 16 := by decide

/-- Each clause of StackBoundsFault at the edge of its range: no SP falls under two of them. -/
theorem witness_StackBoundsFault :
    (State.sp { vec with sp := 16 }).toNat = 16 ∧ (State.sp { vec with sp := 0 }).toNat = 0 ∧
    16 < (State.sp { vec with sp := 17 }).toNat := by decide

/-- The state after the CALL itself keeps the stack as the CALL left it. -/
theorem witness_ReturnGoesToTheWordAfterTheCall : vec.sp.toNat < 16 ∧
    ∃ t u : State, exec (.call 0x400) vec = .next t ∧ u.sp = t.sp ∧ u.stack = t.stack :=
  ⟨by decide, _, _, rfl, rfl, rfl⟩

theorem witness_JpV0AddsV0 : vec.fault = none ∧ 0xFFE < (0xFFE : Addr).toNat + ((vec.setV 0 1).getV 0).toNat := by decide

/-- Both settings of the logic toggle, with x = F and without. -/
theorem witness_LogicResultsAndVf :
    (under false false false vec).quirks.logicVfReset = false ∧ vec.quirks.logicVfReset = true ∧ (1 : Nibble) ≠ vf := by
  decide

/-- The stored bytes end at the last address, and LOW_WRITE = fault with I at 0x200. -/
theorem witness_LdBStoresTheDigits :
    ((vec.setI 0xFFD).i.toNat + 2 ≤ 0xFFF ∧ (vec.platform.lowWrite = .fault → 0x200 ≤ (vec.setI 0xFFD).i.toNat)) ∧
    (protectedVec 0x200).i.toNat + 2 ≤ 0xFFF ∧ (protectedVec 0x200).platform.lowWrite = .fault ∧
    0x200 ≤ (protectedVec 0x200).i.toNat := by decide

theorem witness_LdMemVStoresTheRegisters :
    (vec.setI 0xFF0).i.toNat + (0xF : Nibble).toNat ≤ 0xFFF ∧
    (vec.platform.lowWrite = .fault → 0x200 ≤ (vec.setI 0xFF0).i.toNat) ∧
    (protectedVec 0x200).i.toNat + (0xF : Nibble).toNat ≤ 0xFFF ∧ (protectedVec 0x200).platform.lowWrite = .fault ∧
    0x200 ≤ (protectedVec 0x200).i.toNat := by decide

theorem witness_LdVMemLoadsTheRegisters :
    (vec.setI 0xFF0).i.toNat + (0xF : Nibble).toNat ≤ 0xFFF ∧ (vec.setI 0).i.toNat + (0 : Nibble).toNat ≤ 0xFFF := by decide

/-- Each clause of DataAddressFaults at the first address that faults, and the LOW_WRITE clause at 0x1FF. -/
theorem witness_DataAddressFaults :
    0xFFF < (vec.setI 0xFFE).i.toNat + 2 ∧ 0xFFF < (vec.setI 0xFF1).i.toNat + (0xF : Nibble).toNat ∧
    (0 < (1 : Nibble).toNat ∧ 0xFFF < (vec.setI 0x1000).i.toNat + (1 : Nibble).toNat - 1) ∧
    ((protectedVec 0x1FF).platform.lowWrite = .fault ∧ (protectedVec 0x1FF).i.toNat < 0x200) := by decide

theorem witness_StoredBytesAreFetched :
    (∃ t, exec (.ldMemV 1) (vec.setI 0x400) = .next t) ∧ (vec.setI 0x400).i.toNat + (1 : Nibble).toNat ≤ 0xFFF ∧
    (vec.platform.lowWrite = .fault → 0x200 ≤ (vec.setI 0x400).i.toNat) ∧
    (1 : Nibble).toNat = (0 : Nibble).toNat + 1 ∧ (1 : Nibble).toNat ≤ (1 : Nibble).toNat :=
  ⟨⟨_, rfl⟩, by decide, by decide, by decide, by decide⟩

theorem witness_GlyphRoundTrip :
    ∃ t u, exec (.ldF 0) ((construct Config.font vec).setV 0 (byteOfKey 0xF)) = .next t ∧ exec (.ldVMem 4) t = .next u :=
  ⟨_, _, rfl, rfl⟩

/-- The sprite ends at the last address; a sprite of no rows needs no address. -/
theorem witness_DrwRequestsTheSprite :
    (vec.setI 0xFF1).i.toNat + (0xF : Nibble).toNat - 1 ≤ 0xFFF ∧ (0 : Nibble) = 0 := by decide

theorem witness_KeySkips : ((vec.setV 5 15).getV 5).toNat < 16 ∧ ((vec.setV 5 0).getV 5).toNat < 16 := by decide

theorem witness_KeyNumberAboveFifteenFaults : 15 < ((vec.setV 5 16).getV 5).toNat := by decide

theorem witness_LdVKTakesAKeyOrWaits : (vec.setLast (some 0xF)).lastKey = some 0xF ∧ vec.lastKey = none := by decide

theorem witness_KeyTransactions : vec.lastKey = none ∧ (vec.setLast (some 3)).lastKey = some 3 := by decide

theorem witness_LoadRomCopiesTheProgram :
    (List.replicate 3584 (0 : Byte)).length ≤ 3584 ∧ 3584 < (List.replicate 3585 (0 : Byte)).length := by
  rw [List.length_replicate, List.length_replicate]; decide

theorem witness_SelfLoopChangesNothing : SelfLoop (at' 0x1300) :=
  ⟨by decide, by decide, 0x300, by decide, by decide⟩

theorem witness_WaitingEndsWithTheKey :
    (at' 0xF00A).fault = none ∧ (at' 0xF00A).pcInWindow = true ∧ (at' 0xF00A).lastKey = none ∧
    decode (at' 0xF00A).fetchWord = .ok (.ldVK 0) := by decide

/-- A draw, and the pixels it covers: one clipped at the right edge, one wrapped onto a pixel that is set (answer 1),
with the largest sprite on the conventional grid; and one that wrapping folds onto itself on a grid four pixels wide,
where its first pixel is set and unset again (answer 1 on an empty grid). -/
theorem witness_ReferenceDisplayMeetsTheContract :
    Display.conventional.spritePixels [0x41] 63 0 false = [] ∧
    (Display.mk 64 32 [(0, 0)]).spritePixels [0x41] 63 0 true = [(0, 0), (6, 0)] ∧
    (Display.mk 64 32 [(0, 0)]).draw [0x41] 63 0 true = (Display.mk 64 32 [(6, 0)], true) ∧
    (8 ≤ Display.conventional.width ∧ (List.replicate 15 (0xFF : Byte)).length ≤ Display.conventional.height) ∧
    (Display.mk 4 4 []).spritePixels [0x88] 0 0 true = [(0, 0), (0, 0)] ∧
    (Display.mk 4 4 []).draw [0x88] 0 0 true = (Display.mk 4 4 [], true) := by decide

end Sys2Proof.Machine.Test
end

section
/-! SUPPORT. What an instruction and a step do to PC, the stack and memory, and that every transaction of R13 keeps the
four invariants. -/

namespace Sys2Proof.Machine

/-! ### Control flow and stores of an instruction -/

/-- How an instruction moves PC and the stack: PC stays or goes on by at most two words, or jumps to an address field
with at most a byte added, with the stack as it was; or it pushes its own address; or it pops (R72, R73, R77 to R79,
R84). -/
inductive Flow (s t : State) : Prop where
  | stays (hpc : t.pc = s.pc) (hsp : t.sp = s.sp) (hstack : t.stack = s.stack)
  | goesOn (n : Word) (hn : n.toNat ≤ 4) (hpc : t.pc = s.pc + n) (hsp : t.sp = s.sp) (hstack : t.stack = s.stack)
  | jumps (nnn : Addr) (b : Byte) (hpc : t.pc = zextAddr nnn + zextByte b) (hsp : t.sp = s.sp)
      (hstack : t.stack = s.stack)
  | calls (h : s.sp.toNat < 16) (nnn : Addr) (hpc : t.pc = zextAddr nnn) (hsp : t.sp = s.sp + 1)
      (hstack : t.stack = s.stack.set s.sp.toNat s.pc h)
  | returns (h0 : s.sp ≠ 0) (h : s.sp.toNat - 1 < 16) (hpc : t.pc = s.top h + 2) (hsp : t.sp = s.sp - 1)
      (hstack : t.stack = s.stack)

/-- What an instruction does to PC, the stack and memory: a `Flow`, and at most one run of bytes stored at I (R39). -/
structure Effect (s t : State) : Prop where
  flow : Flow s t
  mem : ∃ bs, t.mem = Memory.writeBytes s.mem s.i.toNat bs

theorem Effect.of_raiseFault {s t : State} {c : FaultCause} {n : Nat} (h : raiseFault s c n = .next t) :
    Effect s t := by
  obtain rfl := (raiseFault_eq_next ..).1 h
  exact ⟨.stays rfl rfl rfl, [], rfl⟩

theorem Effect.of_advance {s u t : State} {reqs : List Request} (h : done u.advance reqs = .next t)
    (hmem : ∃ bs, u.mem = Memory.writeBytes s.mem s.i.toNat bs) (hpc : u.pc = s.pc := by simp)
    (hsp : u.sp = s.sp := by simp) (hstack : u.stack = s.stack := by simp) : Effect s t := by
  obtain rfl := (done_eq_next ..).1 h
  exact ⟨.goesOn 2 (by decide) (by simp [hpc]) hsp hstack, hmem⟩

theorem Effect.of_loadResult {s t : State} {x : Nibble} {r : Byte} (h : loadResult s x r = .next t) : Effect s t :=
  .of_advance h ⟨[], rfl⟩

theorem Effect.of_logicResult {s t : State} {x : Nibble} {r : Byte} (h : logicResult s x r = .next t) : Effect s t :=
  .of_advance h ⟨[], by simp [Memory.writeBytes]⟩

theorem Effect.of_flagResult {s t : State} {x : Nibble} {r f : Byte} (h : flagResult s x r f = .next t) :
    Effect s t :=
  .of_advance h ⟨[], rfl⟩

theorem Effect.of_skip {s t : State} {c : Bool} (h : done (s.skipIf c) [] = .next t) : Effect s t := by
  obtain rfl := (done_eq_next ..).1 h
  cases c
  · exact ⟨.goesOn 2 (by decide) rfl rfl rfl, [], rfl⟩
  · exact ⟨.goesOn 4 (by decide) rfl rfl rfl, [], rfl⟩

theorem Effect.of_jump {s t : State} {nnn : Addr} {b : Byte}
    (h : done (s.setPc (zextAddr nnn + zextByte b)) [] = .next t) : Effect s t := by
  obtain rfl := (done_eq_next ..).1 h
  exact ⟨.jumps nnn b rfl rfl rfl, [], rfl⟩

theorem Effect.of_skipOnKey {s t : State} {k : Byte} {wanted : Bool} (h : skipOnKey k wanted s = .next t) :
    Effect s t := by
  unfold skipOnKey at h
  split at h
  · exact .of_skip h
  · exact .of_raiseFault h

/-- What any instruction does to PC, the stack and memory. -/
theorem exec_effect {i : Instr} {s t : State} (h : exec i s = .next t) : Effect s t := by
  cases i
  case ret =>
    simp only [exec, execRet] at h
    split at h
    · exact .of_raiseFault h
    · next h0 =>
      split at h
      · next h16 =>
        obtain rfl := (done_eq_next ..).1 h
        exact ⟨.returns h0 h16 rfl rfl rfl, [], rfl⟩
      · cases h
  case call nnn =>
    simp only [exec, execCall] at h
    split at h
    · exact .of_raiseFault h
    · split at h
      · next h16 =>
        obtain rfl := (done_eq_next ..).1 h
        exact ⟨.calls h16 nnn rfl rfl rfl, [], rfl⟩
      · cases h
  case jp nnn => exact .of_jump (b := 0) (nnn := nnn) (by simpa [exec, execJp, zextByte] using h)
  case jpV0 nnn => exact .of_jump h
  case seImm x kk | sneImm x kk | seReg x y | sneReg x y => exact .of_skip h
  case skp x | sknp x => exact .of_skipOnKey h
  case ldVK x =>
    simp only [exec, execLdVK] at h
    split at h
    · cases h
      exact ⟨.stays rfl rfl rfl, [], rfl⟩
    · exact .of_advance h ⟨[], rfl⟩
  case drw x y n =>
    simp only [exec, execDrw] at h
    split at h
    · exact .of_raiseFault h
    · exact .of_advance h ⟨[], rfl⟩
  case ldB x =>
    simp only [exec, execLdB] at h
    split at h
    · exact .of_raiseFault h
    · exact .of_advance h ⟨_, rfl⟩
  case ldMemV x =>
    simp only [exec, execLdMemV] at h
    split at h
    · exact .of_raiseFault h
    · exact .of_advance h ⟨_, rfl⟩
  case ldVMem x =>
    simp only [exec, execLdVMem] at h
    split at h
    · exact .of_raiseFault h
    · exact .of_advance h ⟨[], by simp [Memory.writeBytes]⟩
  case ldImm x kk | addImm x kk | ldReg x y => exact .of_loadResult h
  case orReg x y | andReg x y | xorReg x y => exact .of_logicResult h
  case addReg x y | sub x y | shr x y | subn x y | shl x y => exact .of_flagResult h
  case rnd x kk =>
    simp only [exec, execRnd, rndWith, loadResult] at h
    exact .of_advance h ⟨[], rfl⟩
  all_goals
    simp only [exec, execCls, execLdI, execAddI, execLdF, execLdVDt, execLdDtV, execLdStV] at h
    exact .of_advance h ⟨[], rfl⟩

/-- What any step does to PC, the stack and memory; PC leaves its place only from inside the fetch window (R69). -/
theorem step_effect {s t : State} (h : step s = .next t) :
    Effect s t ∧ (s.pc.toNat ≤ 0xFFE ∨ t.pc = s.pc ∧ t.stack = s.stack) := by
  obtain ⟨-, hs⟩ | ⟨hw, -, hs⟩ | ⟨hw, i, -, hs⟩ := step_cases (fault_none_of_step h)
  · rw [hs] at h
    refine ⟨.of_raiseFault h, .inr ?_⟩
    obtain rfl := (raiseFault_eq_next ..).1 h
    exact ⟨rfl, rfl⟩
  · have hpc := ((State.pcInWindow_iff s).1 hw).2
    rw [hs, unrecognized] at h
    cases h
    exact ⟨⟨.goesOn 2 (by decide) rfl rfl rfl, [], rfl⟩, .inl (by omega)⟩
  · have hpc := ((State.pcInWindow_iff s).1 hw).2
    exact ⟨exec_effect (hs ▸ h), .inl (by omega)⟩

/-! ### A step keeps each invariant -/

theorem Flow.wellFormed {s t : State} (h : Flow s t) (hs : s.WellFormed) : t.WellFormed := by
  unfold State.WellFormed at hs ⊢
  cases h with
  | stays _ hsp _ | goesOn _ _ _ hsp _ | jumps _ _ _ hsp _ => rwa [hsp]
  | calls h _ _ hsp _ => rw [hsp]; bv_omega
  | returns h0 _ _ hsp _ => rw [hsp]; bv_omega

/-- From a PC the fetch window admits, the largest PC a step can leave is `nnn + V0 = 0xFFF + 0xFF` (R20). -/
theorem Flow.pcBounded {s t : State} (h : Flow s t) (hpc : s.pc.toNat ≤ 0xFFE) (hs : s.PcBounded) : t.PcBounded := by
  obtain ⟨hle, hstack⟩ := hs
  cases h with
  | stays hp _ hst => exact ⟨hp ▸ hle, hst ▸ hstack⟩
  | goesOn n hn hp _ hst => exact ⟨by rw [hp]; bv_omega, hst ▸ hstack⟩
  | jumps nnn b hp _ hst =>
    have hsum : (zextAddr nnn + zextByte b).toNat ≤ 0x10FE := by
      have := nnn.isLt
      have := b.isLt
      rw [BitVec.toNat_add, toNat_zextAddr, toNat_zextByte]
      omega
    exact ⟨hp ▸ hsum, hst ▸ hstack⟩
  | calls h nnn hp _ hst =>
    refine ⟨?_, fun j hj => ?_⟩
    · have := nnn.isLt
      rw [hp, toNat_zextAddr]
      omega
    · simp only [hst, Vector.getElem_set]
      split
      · exact hpc
      · exact hstack j hj
  | returns _ h hp _ hst =>
    have htop : (s.top h).toNat ≤ 0xFFE := hstack _ h
    exact ⟨by rw [hp]; bv_omega, hst ▸ hstack⟩

theorem step_wellFormed {s t : State} (h : step s = .next t) (hs : s.WellFormed) : t.WellFormed :=
  (step_effect h).1.flow.wellFormed hs

theorem step_canonical {s t : State} (h : step s = .next t) (hs : s.Canonical) : t.Canonical := by
  obtain ⟨bs, hmem⟩ := (step_effect h).1.mem
  rw [State.Canonical, hmem]
  exact Memory.wf_writeBytes _ bs hs

theorem step_pcBounded {s t : State} (h : step s = .next t) (hs : s.PcBounded) : t.PcBounded := by
  obtain ⟨heff, hpc | ⟨hpc, hstack⟩⟩ := step_effect h
  · exact heff.flow.pcBounded hpc hs
  · unfold State.PcBounded
    rwa [hpc, hstack]

/-- An instruction that answers a next state completes or takes a fault. -/
theorem Ends.next_cases {s t : State} {o : Host.Outcome State Fault Refusal} (h : Ends s o) (ho : o = .next t) :
    (t.fault = s.fault ∧ t.requests.length ≤ 1 ∧
      (t.outcome = some .advanced ∨ t.outcome = some .awaitingInput ∧ t.requests = [])) ∨
    ∃ c n, raiseFault s c n = .next t := by
  cases h with
  | completes u hf _ _ hl hout => cases ho; exact .inl ⟨hf, hl, hout⟩
  | faults c n => exact .inr ⟨c, n, ho⟩
  | stops => cases ho

theorem reportSound_of_raiseFault {s t : State} {c : FaultCause} {n : Nat} (h : raiseFault s c n = .next t) :
    t.ReportSound := by
  obtain rfl := (raiseFault_eq_next ..).1 h
  simp [State.ReportSound, State.setFault]

/-- Without a record, a report is sound when its outcome is no fault and only an advancing step makes a request. -/
theorem reportSound_of_no_fault {t : State} (hf : t.fault = none) (hl : t.requests.length ≤ 1)
    (ho : t.outcome = some .advanced ∨
      (t.outcome = some .awaitingInput ∨ t.outcome = some .invalid) ∧ t.requests = []) : t.ReportSound := by
  obtain ho | ⟨ho | ho, hr⟩ := ho <;> simp_all [State.ReportSound]

theorem step_reportSound {s t : State} (h : step s = .next t) : t.ReportSound := by
  have hf := fault_none_of_step h
  obtain ⟨-, hs⟩ | ⟨-, -, hs⟩ | ⟨-, i, -, hs⟩ := step_cases hf
  · exact reportSound_of_raiseFault (hs ▸ h)
  · rw [hs, unrecognized] at h
    cases h
    exact reportSound_of_no_fault hf (Nat.zero_le _) (.inr ⟨.inr rfl, rfl⟩)
  · obtain ⟨hft, hl, ho⟩ | ⟨c, n, hr⟩ := (exec_ends i s).next_cases (hs ▸ h)
    · exact reportSound_of_no_fault (hft.trans hf) hl (ho.imp_right fun ⟨ha, hr⟩ => ⟨.inl ha, hr⟩)
    · exact reportSound_of_raiseFault hr

/-! ### The four invariants together -/

/-- The invariants of R33, R38, R20 and R113 together. -/
structure State.Invariant (s : State) : Prop where
  wellFormed : s.WellFormed
  canonical : s.Canonical
  pcBounded : s.PcBounded
  reportSound : s.ReportSound

theorem invariant_reset : State.reset.Invariant where
  wellFormed := by decide
  canonical := Memory.wf_reset
  pcBounded := by simp [State.PcBounded, State.reset]
  reportSound := by simp [State.ReportSound, State.reset]

theorem step_invariant {s t : State} (h : step s = .next t) (hs : s.Invariant) : t.Invariant where
  wellFormed := step_wellFormed h hs.wellFormed
  canonical := step_canonical h hs.canonical
  pcBounded := step_pcBounded h hs.pcBounded
  reportSound := step_reportSound h

/-- The invariants read memory, PC, the stack, the fault record and the report; none reads the keys, the timers, the
registers, I, the draws or a step's arguments. -/
theorem State.Invariant.congr {s t : State} (hs : s.Invariant) (hmem : t.mem = s.mem) (hpc : t.pc = s.pc)
    (hsp : t.sp = s.sp) (hstack : t.stack = s.stack) (hfault : t.fault = s.fault) (hout : t.outcome = s.outcome)
    (hreq : t.requests = s.requests) : t.Invariant := by
  obtain ⟨hwf, hc, hp, hr⟩ := hs
  constructor
  · rwa [State.WellFormed, hsp]
  · rwa [State.Canonical, hmem]
  · unfold State.PcBounded
    rwa [hpc, hstack]
  · unfold State.ReportSound
    rwa [hreq, hout, hfault]

/-- A run of bytes the host stores keeps the invariants (R138, R139). -/
theorem State.Invariant.storeBytes {s : State} (hs : s.Invariant) (a : Nat) (bs : List Byte) :
    (s.setMem (Memory.writeBytes s.mem a bs)).Invariant :=
  ⟨hs.wellFormed, Memory.wf_writeBytes a bs hs.canonical, hs.pcBounded, hs.reportSound⟩

theorem transact_invariant {a : Transaction} {s t : State} (h : transact a s = .next t) (hs : s.Invariant) :
    t.Invariant := by
  cases a with
  | construct font =>
    cases h
    exact State.Invariant.storeBytes
      (s := { State.reset with quirks := s.quirks, platform := s.platform, draws := s.draws })
      (invariant_reset.congr rfl rfl rfl rfl rfl rfl rfl) 0 font.toList
  | loadTypography font =>
    cases h
    exact hs.storeBytes 0 font.toList
  | loadRom bytes =>
    simp only [transact, loadRom] at h
    split at h
    · cases h
      exact hs.storeBytes 0x200 bytes
    · cases h
  | step q => exact step_invariant h (hs.congr rfl rfl rfl rfl rfl rfl rfl)
  | setLastKey k =>
    simp only [transact, setLastKey] at h
    split at h
    · cases h
      exact hs.congr rfl rfl rfl rfl rfl rfl rfl
    · cases h
  | setKey k down | clearLastKey | tick =>
    cases h
    exact hs.congr rfl rfl rfl rfl rfl rfl rfl

/-- Settles O16: each of the four invariants is kept by a step, through what a step does to PC, the stack, memory and
the report; the host's other transactions and the tick write none of the fields the invariants read but memory, by runs
of canonical writes. -/
theorem transactionsKeepTheInvariants : Obligations.TransactionsKeepTheInvariants := by
  unfold Obligations.TransactionsKeepTheInvariants
  intro a s t hwf hc hp hr h
  obtain ⟨hwf', hc', hp', hr'⟩ := transact_invariant h ⟨hwf, hc, hp, hr⟩
  exact ⟨hwf', hc', hp', hr'⟩

end Sys2Proof.Machine
end

section
/-! SUPPORT. The statements on the state: what a step keeps and that it answers, the registers an instruction leaves
alone, the inputs it does not read, and the state construction gives. -/

namespace Sys2Proof.Machine

/-! ### Every well-formed step answers, and keeps the invariants -/

/-- With SP at most 16 an instruction answers a next state: the stop on SP is out of reach (R33, R74). -/
theorem Ends.exists_next {s : State} {o : Host.Outcome State Fault Refusal} (h : Ends s o) (hs : s.WellFormed) :
    ∃ t, o = .next t := by
  cases h with
  | completes t => exact ⟨t, rfl⟩
  | faults c n => exact ⟨_, rfl⟩
  | stops h16 => exact absurd hs (Nat.not_le.2 h16)

/-- Settles O13: a step moves SP by a `Flow`, which keeps it at most 16, and changes memory only by canonical writes. -/
theorem stepKeepsStateWellFormed : Obligations.StepKeepsStateWellFormed := by
  unfold Obligations.StepKeepsStateWellFormed
  intro s t hwf hc h
  exact ⟨step_wellFormed h hwf, step_canonical h hc⟩

/-- Settles O14: a step leaves PC and the stack alone outside the fetch window, and from inside it the largest PC it can
leave is 0x10FE. -/
theorem stepKeepsPcBounded : Obligations.StepKeepsPcBounded := by
  unfold Obligations.StepKeepsPcBounded
  intro s t hp h
  exact step_pcBounded h hp

/-- Settles O10: a fetch fault and an unrecognized word answer a next state, and an instruction stops only on an SP
above 16. -/
theorem everyWellFormedStateSteps : Obligations.EveryWellFormedStateSteps := by
  unfold Obligations.EveryWellFormedStateSteps
  intro s hwf hf
  obtain ⟨-, hs⟩ | ⟨-, -, hs⟩ | ⟨-, i, -, hs⟩ := step_cases hf
  · exact ⟨_, hs⟩
  · exact ⟨_, hs⟩
  · rw [hs]
    exact (exec_ends i s).exists_next hwf

/-- Settles O15, by the invariants of the reset state taken together. -/
theorem resetMeetsTheInvariants : Obligations.ResetMeetsTheInvariants := by
  unfold Obligations.ResetMeetsTheInvariants
  obtain ⟨hwf, hc, hp, hr⟩ := invariant_reset
  exact ⟨hwf, hc, hp, hr⟩

/-! ### The registers an instruction leaves alone -/

/-- An answer that leaves every register but those of `regs` as it is in `s`. -/
def KeepsRegs (regs : List Nibble) (s : State) (o : Host.Outcome State Fault Refusal) : Prop :=
  ∀ t, o = .next t → ∀ r, r ∉ regs → t.getV r = s.getV r

theorem KeepsRegs.of_raiseFault {regs : List Nibble} {s : State} {c : FaultCause} {n : Nat} :
    KeepsRegs regs s (raiseFault s c n) := by
  intro t h r _
  obtain rfl := (raiseFault_eq_next ..).1 h
  rfl

theorem KeepsRegs.of_done {regs : List Nibble} {s u : State} {reqs : List Request}
    (hv : ∀ r, r ∉ regs → u.getV r = s.getV r) : KeepsRegs regs s (done u reqs) := by
  intro t h r hr
  obtain rfl := (done_eq_next ..).1 h
  exact hv r hr

theorem KeepsRegs.of_fault {regs : List Nibble} {s : State} {f : Fault} : KeepsRegs regs s (.fault f) := by
  intro t h
  cases h

theorem KeepsRegs.of_unchanged {c : Touched} {s t : State} {o : Host.Outcome State Fault Refusal} (ho : o = .next t)
    (h : Unchanged c s t) : KeepsRegs c.regs s o := by
  intro u hu
  cases ho.symm.trans hu
  exact h.1

theorem KeepsRegs.of_loadResult (s : State) (x : Nibble) (r : Byte) : KeepsRegs [x] s (loadResult s x r) :=
  .of_done fun _ hq => State.getV_setV_of_ne s r (by simpa using hq)

theorem KeepsRegs.of_flagResult (s : State) (x : Nibble) (r f : Byte) :
    KeepsRegs [x, vf] s (flagResult s x r f) := by
  obtain ⟨t, ht, -, -, -, -, hu⟩ := flagResult_next s x r f
  exact .of_unchanged ht hu

theorem KeepsRegs.of_logicResult (s : State) (x : Nibble) (r : Byte) :
    KeepsRegs (if s.quirks.logicVfReset then [x, vf] else [x]) s (logicResult s x r) := by
  obtain ⟨t, ht, -, -, -, hu⟩ := logicResult_next s x r
  exact .of_unchanged ht hu

theorem KeepsRegs.of_skipOnKey {regs : List Nibble} {s : State} {k : Byte} {wanted : Bool} :
    KeepsRegs regs s (skipOnKey k wanted s) := by
  unfold skipOnKey
  split
  · exact .of_done fun _ _ => rfl
  · exact .of_raiseFault

theorem mem_regsUpTo {x r : Nibble} (h : r.toNat ≤ x.toNat) : r ∈ regsUpTo x :=
  List.mem_map.2 ⟨r.toNat, List.mem_range.2 (by omega), by simp⟩

/-- An instruction writes no register outside its row of R17. -/
theorem exec_keepsRegs (i : Instr) (s : State) : KeepsRegs (writtenRegs s.quirks i) s (exec i s) := by
  cases i
  case ret | call nnn =>
    simp only [exec, execRet, execCall]
    split
    · exact .of_raiseFault
    · split
      · exact .of_done fun _ _ => rfl
      · exact .of_fault
  case ldImm x kk | addImm x kk | ldReg x y | ldVDt x => exact .of_loadResult s x _
  case rnd x kk => exact KeepsRegs.of_loadResult s.countDraw x _
  case orReg x y | andReg x y | xorReg x y => exact .of_logicResult s x _
  case addReg x y | sub x y | shr x y | subn x y | shl x y => exact .of_flagResult s x _ _
  case skp x | sknp x => exact .of_skipOnKey
  case addI x => exact .of_done fun _ hr => State.getV_setV_of_ne _ _ (by simpa [writtenRegs] using hr)
  case drw x y n =>
    simp only [exec, execDrw]
    split
    · exact .of_raiseFault
    · exact .of_done fun _ hr => State.getV_setV_of_ne _ _ (by simpa [writtenRegs] using hr)
  case ldVK x =>
    simp only [exec, execLdVK]
    split
    · intro t h r _
      cases h
      rfl
    · exact .of_loadResult s x _
  case ldB x | ldMemV x =>
    simp only [exec, execLdB, execLdMemV]
    split
    · exact .of_raiseFault
    · exact .of_done fun _ _ => rfl
  case ldVMem x =>
    simp only [exec, execLdVMem]
    split
    · exact .of_raiseFault
    · refine .of_done fun r hr => ?_
      have hx : ¬ r.toNat ≤ x.toNat := fun h => hr (mem_regsUpTo h)
      simp [State.getV_loadedRegs, hx]
  all_goals exact .of_done fun _ _ => rfl

/-- Settles O18, by the case split of `exec_keepsRegs` over the instructions. -/
theorem onlyTheListedRegistersAreWritten : Obligations.OnlyTheListedRegistersAreWritten := by
  unfold Obligations.OnlyTheListedRegistersAreWritten
  intro i s t h
  exact exec_keepsRegs i s t h

/-! ### ST, lastKey and the key state -/

/-- The state with another ST, lastKey and key state. -/
def State.withInputs (s : State) (b : Byte) (last : Option Nibble) (keys : Vector Bool 16) : State :=
  { s with st := b, lastKey := last, keyStates := keys }

/-- The answer with its next state, if there is one, changed by `f`. -/
def mapNext (f : State → State) : Host.Outcome State Fault Refusal → Host.Outcome State Fault Refusal
  | .next t => .next (f t)
  | .fault r => .fault r
  | .refused r => .refused r

section
variable (s : State) (b : Byte) (last : Option Nibble) (keys : Vector Bool 16)

@[simp] theorem State.withInputs_quirks : (s.withInputs b last keys).quirks = s.quirks := rfl
@[simp] theorem State.withInputs_lastKey : (s.withInputs b last keys).lastKey = last := rfl
@[simp] theorem State.readCheck_withInputs (n : Nat) : (s.withInputs b last keys).readCheck n = s.readCheck n := rfl
@[simp] theorem State.writeCheck_withInputs (n : Nat) : (s.withInputs b last keys).writeCheck n = s.writeCheck n := rfl

theorem State.logicFlag_withInputs : (s.withInputs b last keys).logicFlag = s.logicFlag.withInputs b last keys := by
  unfold State.logicFlag
  rw [State.withInputs_quirks]
  split <;> rfl

theorem logicResult_withInputs (x : Nibble) (r : Byte) :
    logicResult (s.withInputs b last keys) x r = mapNext (·.withInputs b last keys) (logicResult s x r) :=
  congrArg (fun u => done (State.advance u) []) (State.logicFlag_withInputs (s.setV x r) b last keys)

theorem skipOnKey_withInputs (k : Byte) (wanted : Bool) :
    skipOnKey k wanted (s.withInputs b last s.keyStates) =
      mapNext (·.withInputs b last s.keyStates) (skipOnKey k wanted s) := by
  unfold skipOnKey
  split <;> rfl

end

/-- ST after an instruction run on `s` with ST replaced by `b`: only Fx18 writes it (R112). -/
def stAfter (i : Instr) (s : State) (b : Byte) : Byte :=
  match i with
  | .ldStV x => s.getV x
  | _ => b

/-- An instruction carries ST, lastKey and the key state along unread, but for the readers R29 and R30 name. -/
theorem exec_withInputs {i : Instr} {s : State} (b : Byte) {last : Option Nibble} {keys : Vector Bool 16}
    (hlast : ∀ x, i = .ldVK x → last = s.lastKey) (hkeys : ∀ x, i = .skp x ∨ i = .sknp x → keys = s.keyStates) :
    exec i (s.withInputs b last keys) = mapNext (·.withInputs (stAfter i s b) last keys) (exec i s) := by
  cases i
  case ret | call nnn =>
    simp only [exec, execRet, execCall, apply_ite (mapNext _), apply_dite (mapNext _)]
    rfl
  case skp x =>
    obtain rfl := hkeys x (.inl rfl)
    exact skipOnKey_withInputs s b last (s.getV x) true
  case sknp x =>
    obtain rfl := hkeys x (.inr rfl)
    exact skipOnKey_withInputs s b last (s.getV x) false
  case ldVK x =>
    obtain rfl := hlast x rfl
    simp only [exec, execLdVK, State.withInputs_lastKey]
    split <;> rfl
  case drw x y n | ldB x | ldMemV x | ldVMem x =>
    simp only [exec, execDrw, execLdB, execLdMemV, execLdVMem, State.readCheck_withInputs,
      State.writeCheck_withInputs]
    split <;> rfl
  case orReg x y | andReg x y | xorReg x y => exact logicResult_withInputs s b last keys x _
  -- The rest always complete, by updates of other fields than the three inputs, but for Fx18's of ST.
  all_goals rfl

theorem exec_withInputs_next {i : Instr} {s t : State} (h : exec i s = .next t) (b : Byte) {last : Option Nibble}
    {keys : Vector Bool 16} (hlast : ∀ x, i = .ldVK x → last = s.lastKey)
    (hkeys : ∀ x, i = .skp x ∨ i = .sknp x → keys = s.keyStates) :
    exec i (s.withInputs b last keys) = .next (t.withInputs (stAfter i s b) last keys) := by
  rw [exec_withInputs b hlast hkeys, h]
  rfl

/-- An instruction leaves lastKey and the key state as they were, and ST as `stAfter` says. -/
theorem eq_withInputs_of_exec {i : Instr} {s t : State} (h : exec i s = .next t) :
    t = t.withInputs (stAfter i s s.st) s.lastKey s.keyStates :=
  Host.Outcome.next.inj (h.symm.trans (exec_withInputs_next h s.st (fun _ _ => rfl) (fun _ _ => rfl)))

/-- Settles O19: the ST put in is carried along, or overwritten by Fx18 with what it writes anyway. -/
theorem soundTimerIsNeverRead : Obligations.SoundTimerIsNeverRead := by
  unfold Obligations.SoundTimerIsNeverRead
  intro i s t b h
  refine ⟨_, exec_withInputs_next h b (fun _ _ => rfl) (fun _ _ => rfl), ?_⟩
  rw [congrArg (State.setSt · 0) (eq_withInputs_of_exec h)]
  rfl

/-- Settles O20: the lastKey or key state put in is carried along to the next state. -/
theorem onlyTheKeyInstructionsReadKeys : Obligations.OnlyTheKeyInstructionsReadKeys := by
  unfold Obligations.OnlyTheKeyInstructionsReadKeys
  intro i s t h
  have ht := eq_withInputs_of_exec h
  refine ⟨fun hi k => ⟨_, exec_withInputs_next h s.st (fun x hx => absurd hx (hi x)) (fun _ _ => rfl), ?_⟩,
    fun hi k down => ⟨_, exec_withInputs_next h s.st (fun _ _ => rfl) (fun x hx => absurd hx (not_or.2 (hi x))), ?_⟩⟩
  · rw [congrArg (State.setLast · none) ht]
    rfl
  · exact ht.symm

/-! ### The state construction gives -/

theorem construct_mem (font : Font) (s : State) :
    (construct font s).mem = Memory.writeBytes State.reset.mem 0 font.toList := rfl

/-- The memory `construct` leaves: the font below 80, zeros above it (R36, R137). -/
theorem readByte_construct (font : Font) (s : State) (a : Nat) :
    (construct font s).readByte a = if h : a < 80 then font[a] else 0 := by
  rw [State.readByte, construct_mem, Memory.read_writeBytes _ _ _ _ (by simp [memSize])]
  by_cases ha : a < 80
  · simp [ha]
  · simp [ha, State.reset, Memory.read, Memory.initial]

theorem canonical_construct (font : Font) (s : State) : (construct font s).Canonical := by
  rw [State.Canonical, construct_mem]
  exact Memory.wf_writeBytes 0 _ Memory.wf_reset

theorem construct_reset (font : Font) :
    construct font State.reset = State.reset.setMem (construct font State.reset).mem := rfl

theorem readByte_reset (a : Nat) : State.reset.readByte a = if h : a < 80 then Config.font[a] else 0 := rfl

/-- Memory constructed with the model's own font reads as the reset contents everywhere, so it lists no cell. -/
theorem construct_font_reset : construct Config.font State.reset = State.reset := by
  have hread (a : Nat) : (construct Config.font State.reset).readByte a = State.reset.readByte a := by
    rw [readByte_construct, readByte_reset]
  have hmem : (construct Config.font State.reset).mem = State.reset.mem :=
    Memory.eq_of_read (canonical_construct _ _) Memory.wf_reset hread
  rw [construct_reset, hmem]
  rfl

/-- Settles O57: memory reads as the font and zeros, and every other field is the reset state's. -/
theorem constructGivesTheResetTable : Obligations.ConstructGivesTheResetTable := by
  unfold Obligations.ConstructGivesTheResetTable
  refine ⟨fun font s => ⟨construct font s, rfl, readByte_construct font s, ?_, rfl, rfl, rfl, ?_, rfl, rfl, ?_, rfl,
    rfl⟩, construct_font_reset⟩
  · intro x
    have hv : (construct font s).v = Vector.replicate 16 0 := rfl
    simp [State.getV, hv]
  · intro j hj
    exact Vector.getElem_replicate hj
  · intro k
    exact Vector.getElem_replicate k.isLt

/-! ### A glyph through I and memory -/

/-- Fx65 where every address exists (R104). -/
theorem exec_ldVMem_of_le (x : Nibble) {s : State} (h : s.i.toNat + x.toNat ≤ 0xFFF) :
    exec (.ldVMem x) s = done ((s.setAllV (s.loadedRegs x)).setI (s.indexAfter x)).advance [] := by
  have hc : s.readCheck (regCount x) = none := by
    rw [State.readCheck_eq, if_pos (.inr (by unfold regCount; omega))]
  simp only [exec, execLdVMem, hc]

theorem getV_of_exec_ldVMem {x k : Nibble} {s t : State} (h : exec (.ldVMem x) s = .next t)
    (hi : s.i.toNat + x.toNat ≤ 0xFFF) (hk : k.toNat ≤ x.toNat) :
    t.getV k = s.readByte (s.i.toNat + k.toNat) := by
  rw [exec_ldVMem_of_le x hi] at h
  obtain rfl := (done_eq_next ..).1 h
  simp [State.getV_loadedRegs, hk]

theorem exec_ldF_next {x : Nibble} {s t : State} (h : exec (.ldF x) s = .next t) :
    t.i.toNat = 5 * (s.getV x).toNat ∧ t.mem = s.mem := by
  obtain rfl := (done_eq_next ..).1 h
  simp

/-- Settles O45: Fx29 points I at the glyph in the font `construct` stored, and Fx65 loads five bytes from there. -/
theorem glyphRoundTrip : Obligations.GlyphRoundTrip := by
  unfold Obligations.GlyphRoundTrip
  intro font s t u x g ht hu k hk
  have hg := g.isLt
  obtain ⟨hi, hmem⟩ := exec_ldF_next ht
  simp only [State.getV_setV_same, toNat_byteOfKey] at hi
  have hexist : t.i.toNat + (4 : Nibble).toNat ≤ 0xFFF := by
    have h4 : (4 : Nibble).toNat = 4 := rfl
    omega
  calc u.getV k = t.readByte (5 * g.toNat + k.toNat) := by rw [getV_of_exec_ldVMem hu hexist hk, hi]
    _ = (construct font s).readByte (5 * g.toNat + k.toNat) := congrArg (Memory.read · _) hmem
    _ = font[5 * g.toNat + k.toNat] := by rw [readByte_construct, dif_pos]

end Sys2Proof.Machine
end

section
/-! SUPPORT. The statements on memory: that a step runs the instruction whose word stands at PC, also when it has just
been stored there, by the host or by Fx55, and the faults of a data address. -/

namespace Sys2Proof

/-! ### An instruction's word decodes to the instruction (R54 to R58) -/

/-- The decoder reads every instruction back from its own word; within a family the subcode tells the instructions
apart. -/
@[simp] theorem decode_encode (i : Instr) : decode (encode i) = .ok i := by
  cases i
  case cls | ret => rfl
  case jp nnn | call nnn | ldI nnn | jpV0 nnn =>
    simp [encode, decode_family1, decode_family2, decode_familyA, decode_familyB]
  case seImm x kk | sneImm x kk | ldImm x kk | addImm x kk | rnd x kk =>
    simp [encode, decode_family3, decode_family4, decode_family6, decode_family7, decode_familyC]
  case seReg x y | sneReg x y | drw x y n =>
    simp [encode, decode_family5, decode_family9, decode_familyD]
  case ldReg x y | orReg x y | andReg x y | xorReg x y | addReg x y | sub x y | shr x y | subn x y | shl x y =>
    simp [encode, decode_family8, decodeAlu]
  case skp x | sknp x => simp [encode, decode_familyE]
  case ldVDt x | ldVK x | ldDtV x | ldStV x | addI x | ldF x | ldB x | ldMemV x | ldVMem x =>
    simp [encode, decode_familyF, decodeMisc]

/-- All sixteen bits of a table word are the word. -/
@[simp] theorem tableWord_toNat (w : Word) : tableWord 16 w.toNat = w := by
  rw [tableWord, Nat.mod_eq_of_lt w.isLt, BitVec.ofNat_toNat, BitVec.setWidth_eq]

/-- The host's question about an instruction's own word is answered with the instruction. -/
theorem decodeTableWord_encode (i : Instr) : decodeTableWord 16 (encode i).toNat = some i := by
  simp [decodeTableWord, decodeBytes]

end Sys2Proof

namespace Sys2Proof.Machine

/-! ### A step runs the instruction fetched (R69, R70) -/

theorem step_of_fetchWord_eq_encode {s : State} {i : Instr} (hf : s.fault = none) (hw : s.pcInWindow = true)
    (h : s.fetchWord = encode i) : step s = exec i s := by
  simp [step, hf, hw, h]

/-- Settles O5: the two bytes make the fetched word, and an instruction's word decodes to the instruction. -/
theorem stepRunsTheDecodedInstruction : Obligations.StepRunsTheDecodedInstruction := by
  unfold Obligations.StepRunsTheDecodedInstruction
  intro s i hf hmin hmax hbytes
  have hfetch : s.fetchWord = encode i := BitVec.eq_of_toNat_eq ((State.toNat_fetchWord s).trans hbytes.symm)
  exact step_of_fetchWord_eq_encode hf ((State.pcInWindow_iff s).2 ⟨hmin, hmax⟩) hfetch

/-! ### An instruction the host stores at PC (log entry 11) -/

/-- Memory after the host's store: the word's bytes at PC and PC + 1, every other byte as before (R42). -/
theorem State.readByte_withFetchWord {s : State} (h : s.pc.toNat + 1 ≤ 0xFFF) (w : Word) (a : Nat) :
    (s.withFetchWord 16 w.toNat).readByte a =
      if a = s.pc.toNat then highByte w else if a = s.pc.toNat + 1 then lowByte w else s.readByte a := by
  have hroom : s.pc.toNat + 1 < memSize := by unfold memSize; omega
  rw [State.withFetchWord, tableWord_toNat, State.readByte_setMem, Memory.writeBytes, Memory.writeBytes,
    Memory.writeBytes, Memory.read_write _ _ _ hroom, Memory.read_write _ _ _ (by omega)]
  by_cases ha : a = s.pc.toNat
  · simp [ha]
  · simp [ha, State.readByte]

theorem State.fetchWord_withFetchWord {s : State} (h : s.pc.toNat + 1 ≤ 0xFFF) (w : Word) :
    (s.withFetchWord 16 w.toNat).fetchWord = w := by
  have hpc : (s.withFetchWord 16 w.toNat).pc = s.pc := rfl
  simp [State.fetchWord, hpc, State.readByte_withFetchWord h]

/-- Settles O6: the fetch reads the stored word back, in a state that differs in memory only. -/
theorem storedInstructionRunsNext : Obligations.StoredInstructionRunsNext := by
  unfold Obligations.StoredInstructionRunsNext
  intro s i hf hmin hmax
  refine ⟨?_, decodeTableWord_encode i, rfl, ?_⟩
  · exact step_of_fetchWord_eq_encode hf ((State.pcInWindow_iff s).2 ⟨hmin, hmax⟩)
      (State.fetchWord_withFetchWord hmax (encode i))
  · intro a hhi hlo
    rw [State.readByte_withFetchWord hmax, if_neg hhi, if_neg hlo]

/-! ### A word Fx55 stores (R103) -/

/-- Fx55 where every address exists and LOW_WRITE forbids none (R103). -/
theorem exec_ldMemV_of_le (x : Nibble) {s : State} (h : s.i.toNat + x.toNat ≤ 0xFFF)
    (hlow : s.platform.lowWrite = .fault → 0x200 ≤ s.i.toNat) :
    exec (.ldMemV x) s =
      done ((s.setMem (Memory.writeBytes s.mem s.i.toNat (s.regBytes x))).setI (s.indexAfter x)).advance [] := by
  have hc : s.writeCheck (regCount x) = none := by
    rw [State.writeCheck_eq s _ hlow, if_pos (.inr (by unfold regCount; omega))]
  simp only [exec, execLdMemV, hc]

theorem readByte_of_exec_ldMemV {x k : Nibble} {s t : State} (h : exec (.ldMemV x) s = .next t)
    (hi : s.i.toNat + x.toNat ≤ 0xFFF) (hlow : s.platform.lowWrite = .fault → 0x200 ≤ s.i.toNat)
    (hk : k.toNat ≤ x.toNat) : t.readByte (s.i.toNat + k.toNat) = s.getV k := by
  rw [exec_ldMemV_of_le x hi hlow] at h
  obtain rfl := (done_eq_next ..).1 h
  have hroom : s.i.toNat + (s.regBytes x).length ≤ memSize := by rw [length_regBytes]; unfold memSize; omega
  simp [Memory.read_writeBytes _ _ _ _ hroom, State.getElem_regBytes s x k hk]

/-- Settles O44: the fetch at I + k reads the bytes at I + k and I + k + 1, where Fx55 has stored Vk and Vl. -/
theorem storedBytesAreFetched : Obligations.StoredBytesAreFetched := by
  unfold Obligations.StoredBytesAreFetched
  intro x k l s t h hi hlow hl hlx
  have haddr : (s.i + BitVec.ofNat 16 k.toNat).toNat = s.i.toNat + k.toNat := by
    rw [BitVec.toNat_add, BitVec.toNat_ofNat]
    omega
  have hhi := readByte_of_exec_ldMemV (k := k) h hi hlow (by omega)
  have hlo := readByte_of_exec_ldMemV (k := l) h hi hlow hlx
  rw [hl, ← Nat.add_assoc] at hlo
  rw [State.toNat_fetchWord, State.setPc_pc, haddr, State.readByte_setPc, State.readByte_setPc, hhi, hlo]

/-! ### The faults of a data address (R40, R113, R114) -/

/-- A read whose last address does not exist names the lowest that does not. -/
theorem State.readCheck_above {s : State} {n : Nat} (hn : 0 < n) (h : 0xFFF < s.i.toNat + n - 1) :
    s.readCheck n = some (.memOutOfRange, max s.i.toNat 0x1000) := by
  rw [State.readCheck_eq, if_neg (by omega)]

/-- So does a write: at most sixteen bytes of which one lies above 0xFFF start above 0x200, out of LOW_WRITE's reach. -/
theorem State.writeCheck_above {s : State} {n : Nat} (hn : 0 < n) (hn16 : n ≤ 16) (h : 0xFFF < s.i.toNat + n - 1) :
    s.writeCheck n = some (.memOutOfRange, max s.i.toNat 0x1000) := by
  rw [State.writeCheck_eq s n (fun _ => by omega), if_neg (by omega)]

section
variable {s : State} {c : FaultCause} {a : Nat}

theorem exec_ldB_faults (x : Nibble) (h : s.writeCheck 3 = some (c, a)) :
    ∃ t, exec (.ldB x) s = .next t ∧ FaultTaken c a s t := by
  simp only [exec, execLdB, h]
  exact raiseFault_taken s c a

theorem exec_ldMemV_faults {x : Nibble} (h : s.writeCheck (regCount x) = some (c, a)) :
    ∃ t, exec (.ldMemV x) s = .next t ∧ FaultTaken c a s t := by
  simp only [exec, execLdMemV, h]
  exact raiseFault_taken s c a

theorem exec_ldVMem_faults {x : Nibble} (h : s.readCheck (regCount x) = some (c, a)) :
    ∃ t, exec (.ldVMem x) s = .next t ∧ FaultTaken c a s t := by
  simp only [exec, execLdVMem, h]
  exact raiseFault_taken s c a

theorem exec_drw_faults (x y : Nibble) {n : Nibble} (h : s.readCheck n.toNat = some (c, a)) :
    ∃ t, exec (.drw x y n) s = .next t ∧ FaultTaken c a s t := by
  simp only [exec, execDrw, h]
  exact raiseFault_taken s c a

end

/-- Settles O43: each instruction takes the fault its address check names. -/
theorem dataAddressFaults : Obligations.DataAddressFaults := by
  unfold Obligations.DataAddressFaults
  intro x y n s
  have hpos : 0 < regCount x := Nat.succ_pos _
  have h16 : regCount x ≤ 16 := x.isLt
  refine ⟨fun h => ?_, fun h => ⟨?_, ?_⟩, fun hn h => ?_, fun hlw hi => ⟨?_, ?_⟩⟩
  · exact exec_ldB_faults x (State.writeCheck_above (by decide) (by decide) h)
  · exact exec_ldMemV_faults (State.writeCheck_above hpos h16 h)
  · exact exec_ldVMem_faults (State.readCheck_above hpos h)
  · exact exec_drw_faults x y (State.readCheck_above hn h)
  · exact exec_ldB_faults x (State.writeCheck_low s hlw hi (by decide))
  · exact exec_ldMemV_faults (State.writeCheck_low s hlw hi hpos)

end Sys2Proof.Machine
end

section
/-! SUPPORT. The statements on the encoding: the round trip between instructions and their words, and the decoder
against the opcode table (spec/30_encoding.md R54 to R65). -/

namespace Sys2Proof

/-! ### An instruction's bytes decode to the instruction (R42, R54) -/

theorem decodeBytes_encodeBytes (i : Instr) (rest : List Byte) :
    decodeBytes (encodeBytes i ++ rest) = .ok (i, rest) := by
  simp only [encodeBytes, List.cons_append, List.nil_append, decodeBytes_word, decode_encode]
  rfl

/-- Settles O1: the word form is `decode_encode`, and decoding an instruction's two bytes is decoding its word. -/
theorem decodeOfEncodeIsTheInstruction : Obligations.DecodeOfEncodeIsTheInstruction := by
  unfold Obligations.DecodeOfEncodeIsTheInstruction
  exact fun i => ⟨decode_encode i, decodeBytes_encodeBytes i⟩

/-! ### A word of known family and subcode is the encoding of its operand fields -/

section
variable {w : Word} {i : Instr} {f n : Nibble} {kk : Byte}

theorem encodeNnn_of_family (hf : fieldFamily w = f) : encodeNnn f (fieldNnn w) = w := by
  rw [← hf, encodeNnn_fields]

theorem encodeXkk_of_family (hf : fieldFamily w = f) : encodeXkk f (fieldX w) (fieldKk w) = w := by
  rw [← hf, encodeXkk_fields]

theorem encodeXkk_of_subcode (hf : fieldFamily w = f) (hk : fieldKk w = kk) : encodeXkk f (fieldX w) kk = w := by
  rw [← hk, encodeXkk_of_family hf]

theorem encodeXyn_of_family (hf : fieldFamily w = f) : encodeXyn f (fieldX w) (fieldY w) (fieldN w) = w := by
  rw [← hf, encodeXyn_fields]

theorem encodeXyn_of_subcode (hf : fieldFamily w = f) (hn : fieldN w = n) :
    encodeXyn f (fieldX w) (fieldY w) n = w := by
  rw [← hn, encodeXyn_of_family hf]

/-! ### What decodes encodes back (R55, R57) -/

theorem encode_of_decodeAlu (hf : fieldFamily w = 0x8) (h : decodeAlu w = .ok i) : encode i = w := by
  simp only [decodeAlu] at h
  split_ifs at h <;> cases h
  all_goals exact encodeXyn_of_subcode hf ‹_›

theorem encode_of_decodeMisc (hf : fieldFamily w = 0xF) (h : decodeMisc w = .ok i) : encode i = w := by
  simp only [decodeMisc] at h
  split_ifs at h <;> cases h
  all_goals exact encodeXkk_of_subcode hf ‹_›

/-- By the word's family: where it has subcodes, the decoder's own test fixes the bits that no operand holds. -/
theorem encode_of_decode (h : decode w = .ok i) : encode i = w := by
  rcases family_cases (fieldFamily w) with
    hf | hf | hf | hf | hf | hf | hf | hf | hf | hf | hf | hf | hf | hf | hf | hf
  · rw [decode_family0 hf] at h
    split_ifs at h with hcls hret <;> cases h
    · exact hcls.symm
    · exact hret.symm
  · cases (decode_family1 hf).symm.trans h
    exact encodeNnn_of_family hf
  · cases (decode_family2 hf).symm.trans h
    exact encodeNnn_of_family hf
  · cases (decode_family3 hf).symm.trans h
    exact encodeXkk_of_family hf
  · cases (decode_family4 hf).symm.trans h
    exact encodeXkk_of_family hf
  · rw [decode_family5 hf] at h
    split_ifs at h with hn
    cases h
    exact encodeXyn_of_subcode hf hn
  · cases (decode_family6 hf).symm.trans h
    exact encodeXkk_of_family hf
  · cases (decode_family7 hf).symm.trans h
    exact encodeXkk_of_family hf
  · exact encode_of_decodeAlu hf (decode_family8 hf ▸ h)
  · rw [decode_family9 hf] at h
    split_ifs at h with hn
    cases h
    exact encodeXyn_of_subcode hf hn
  · cases (decode_familyA hf).symm.trans h
    exact encodeNnn_of_family hf
  · cases (decode_familyB hf).symm.trans h
    exact encodeNnn_of_family hf
  · cases (decode_familyC hf).symm.trans h
    exact encodeXkk_of_family hf
  · cases (decode_familyD hf).symm.trans h
    exact encodeXyn_of_family hf
  · rw [decode_familyE hf] at h
    split_ifs at h with hskp hsknp <;> cases h
    · exact encodeXkk_of_subcode hf hskp
    · exact encodeXkk_of_subcode hf hsknp
  · exact encode_of_decodeMisc hf (decode_familyF hf ▸ h)

end

/-- Settles O2, by the word's family. -/
theorem encodeOfDecodeIsTheWord : Obligations.EncodeOfDecodeIsTheWord := by
  unfold Obligations.EncodeOfDecodeIsTheWord
  exact fun _ _ => encode_of_decode

/-! ### An instruction's word is in the table (R56, R59) -/

/-- The rows of Laws/PerInstr.lean, taken together. -/
theorem Laws.TableRow.statement : ∀ i : Instr, Laws.TableRow.Statement i
  | .cls => cls
  | .ret => ret
  | .jp nnn => jp nnn
  | .call nnn => call nnn
  | .seImm x kk => seImm x kk
  | .sneImm x kk => sneImm x kk
  | .seReg x y => seReg x y
  | .ldImm x kk => ldImm x kk
  | .addImm x kk => addImm x kk
  | .ldReg x y => ldReg x y
  | .orReg x y => orReg x y
  | .andReg x y => andReg x y
  | .xorReg x y => xorReg x y
  | .addReg x y => addReg x y
  | .sub x y => sub x y
  | .shr x y => shr x y
  | .subn x y => subn x y
  | .shl x y => shl x y
  | .sneReg x y => sneReg x y
  | .ldI nnn => ldI nnn
  | .jpV0 nnn => jpV0 nnn
  | .rnd x kk => rnd x kk
  | .drw x y n => drw x y n
  | .skp x => skp x
  | .sknp x => sknp x
  | .ldVDt x => ldVDt x
  | .ldVK x => ldVK x
  | .ldDtV x => ldDtV x
  | .ldStV x => ldStV x
  | .addI x => addI x
  | .ldF x => ldF x
  | .ldB x => ldB x
  | .ldMemV x => ldMemV x
  | .ldVMem x => ldVMem x

theorem recognized_encode (i : Instr) : recognized (encode i) = true := by
  obtain ⟨r, hr, -, hmatch⟩ := Laws.TableRow.statement i
  exact List.any_eq_true.2 ⟨r, hr, hmatch⟩

/-! ### A word in the table is an instruction's word

A row's mask keeps the family and the subcode, so the row's pattern fixes them. -/

theorem fieldFamily_eq_of_mask {w : Word} {f : Nibble} (h : w &&& 0xF000 = encodeNnn f 0) : fieldFamily w = f := by
  rw [← encodeNnn_fields w, encodeNnn_mask] at h
  simpa using congrArg fieldFamily h

theorem fields_eq_of_mask_n {w : Word} {f n : Nibble} (h : w &&& 0xF00F = encodeXyn f 0 0 n) :
    fieldFamily w = f ∧ fieldN w = n := by
  rw [← encodeXyn_fields w, encodeXyn_mask] at h
  exact ⟨by simpa using congrArg fieldFamily h, by simpa using congrArg fieldN h⟩

theorem fields_eq_of_mask_kk {w : Word} {f : Nibble} {kk : Byte} (h : w &&& 0xF0FF = encodeXkk f 0 kk) :
    fieldFamily w = f ∧ fieldKk w = kk := by
  rw [← encodeXkk_fields w, encodeXkk_mask] at h
  exact ⟨by simpa using congrArg fieldFamily h, by simpa using congrArg fieldKk h⟩

section
variable {w : Word}

theorem encodeNnn_of_mask {f : Nibble} (h : w &&& 0xF000 = encodeNnn f 0) : encodeNnn f (fieldNnn w) = w :=
  encodeNnn_of_family (fieldFamily_eq_of_mask h)

theorem encodeXkk_of_mask {f : Nibble} (h : w &&& 0xF000 = encodeNnn f 0) :
    encodeXkk f (fieldX w) (fieldKk w) = w :=
  encodeXkk_of_family (fieldFamily_eq_of_mask h)

theorem encodeXyn_of_mask {f : Nibble} (h : w &&& 0xF000 = encodeNnn f 0) :
    encodeXyn f (fieldX w) (fieldY w) (fieldN w) = w :=
  encodeXyn_of_family (fieldFamily_eq_of_mask h)

theorem encodeXyn_of_mask_n {f n : Nibble} (h : w &&& 0xF00F = encodeXyn f 0 0 n) :
    encodeXyn f (fieldX w) (fieldY w) n = w :=
  encodeXyn_of_subcode (fields_eq_of_mask_n h).1 (fields_eq_of_mask_n h).2

theorem encodeXkk_of_mask_kk {f : Nibble} {kk : Byte} (h : w &&& 0xF0FF = encodeXkk f 0 kk) :
    encodeXkk f (fieldX w) kk = w :=
  encodeXkk_of_subcode (fields_eq_of_mask_kk h).1 (fields_eq_of_mask_kk h).2

theorem exists_encode_of_rowsLow (h : ∃ r ∈ opcodeRowsLow, r.matches w = true) : ∃ i, encode i = w := by
  simp only [opcodeRowsLow, List.exists_mem_cons_iff, OpcodeRow.matches, beq_iff_eq] at h
  rcases h with h | h | h | h | h | h | h | h | h | ⟨_, h, _⟩
  · exact ⟨.cls, h.symm.trans BitVec.and_allOnes⟩
  · exact ⟨.ret, h.symm.trans BitVec.and_allOnes⟩
  · exact ⟨.jp (fieldNnn w), encodeNnn_of_mask h⟩
  · exact ⟨.call (fieldNnn w), encodeNnn_of_mask h⟩
  · exact ⟨.seImm (fieldX w) (fieldKk w), encodeXkk_of_mask h⟩
  · exact ⟨.sneImm (fieldX w) (fieldKk w), encodeXkk_of_mask h⟩
  · exact ⟨.seReg (fieldX w) (fieldY w), encodeXyn_of_mask_n h⟩
  · exact ⟨.ldImm (fieldX w) (fieldKk w), encodeXkk_of_mask h⟩
  · exact ⟨.addImm (fieldX w) (fieldKk w), encodeXkk_of_mask h⟩
  · cases h

theorem exists_encode_of_rowsAlu (h : ∃ r ∈ opcodeRowsAlu, r.matches w = true) : ∃ i, encode i = w := by
  simp only [opcodeRowsAlu, List.exists_mem_cons_iff, OpcodeRow.matches, beq_iff_eq] at h
  rcases h with h | h | h | h | h | h | h | h | h | h | ⟨_, h, _⟩
  · exact ⟨.ldReg (fieldX w) (fieldY w), encodeXyn_of_mask_n h⟩
  · exact ⟨.orReg (fieldX w) (fieldY w), encodeXyn_of_mask_n h⟩
  · exact ⟨.andReg (fieldX w) (fieldY w), encodeXyn_of_mask_n h⟩
  · exact ⟨.xorReg (fieldX w) (fieldY w), encodeXyn_of_mask_n h⟩
  · exact ⟨.addReg (fieldX w) (fieldY w), encodeXyn_of_mask_n h⟩
  · exact ⟨.sub (fieldX w) (fieldY w), encodeXyn_of_mask_n h⟩
  · exact ⟨.shr (fieldX w) (fieldY w), encodeXyn_of_mask_n h⟩
  · exact ⟨.subn (fieldX w) (fieldY w), encodeXyn_of_mask_n h⟩
  · exact ⟨.shl (fieldX w) (fieldY w), encodeXyn_of_mask_n h⟩
  · exact ⟨.sneReg (fieldX w) (fieldY w), encodeXyn_of_mask_n h⟩
  · cases h

theorem exists_encode_of_rowsHigh (h : ∃ r ∈ opcodeRowsHigh, r.matches w = true) : ∃ i, encode i = w := by
  simp only [opcodeRowsHigh, List.exists_mem_cons_iff, OpcodeRow.matches, beq_iff_eq] at h
  rcases h with h | h | h | h | h | h | h | h | h | h | h | h | h | h | h | ⟨_, h, _⟩
  · exact ⟨.ldI (fieldNnn w), encodeNnn_of_mask h⟩
  · exact ⟨.jpV0 (fieldNnn w), encodeNnn_of_mask h⟩
  · exact ⟨.rnd (fieldX w) (fieldKk w), encodeXkk_of_mask h⟩
  · exact ⟨.drw (fieldX w) (fieldY w) (fieldN w), encodeXyn_of_mask h⟩
  · exact ⟨.skp (fieldX w), encodeXkk_of_mask_kk h⟩
  · exact ⟨.sknp (fieldX w), encodeXkk_of_mask_kk h⟩
  · exact ⟨.ldVDt (fieldX w), encodeXkk_of_mask_kk h⟩
  · exact ⟨.ldVK (fieldX w), encodeXkk_of_mask_kk h⟩
  · exact ⟨.ldDtV (fieldX w), encodeXkk_of_mask_kk h⟩
  · exact ⟨.ldStV (fieldX w), encodeXkk_of_mask_kk h⟩
  · exact ⟨.addI (fieldX w), encodeXkk_of_mask_kk h⟩
  · exact ⟨.ldF (fieldX w), encodeXkk_of_mask_kk h⟩
  · exact ⟨.ldB (fieldX w), encodeXkk_of_mask_kk h⟩
  · exact ⟨.ldMemV (fieldX w), encodeXkk_of_mask_kk h⟩
  · exact ⟨.ldVMem (fieldX w), encodeXkk_of_mask_kk h⟩
  · cases h

theorem exists_encode_of_recognized (h : recognized w = true) : ∃ i, encode i = w := by
  obtain ⟨r, hr, hmatch⟩ := List.any_eq_true.1 h
  rw [opcodeTable, List.mem_append, List.mem_append] at hr
  rcases hr with (hlow | halu) | hhigh
  · exact exists_encode_of_rowsLow ⟨r, hlow, hmatch⟩
  · exact exists_encode_of_rowsAlu ⟨r, halu, hmatch⟩
  · exact exists_encode_of_rowsHigh ⟨r, hhigh, hmatch⟩

/-! ### The rows are disjoint (R65) -/

/-- The rows' patterns differ in a bit that both masks keep. -/
abbrev OpcodeRow.Disagree (r r' : OpcodeRow) : Prop := r.pattern &&& r'.mask ≠ r'.pattern &&& r.mask

theorem OpcodeRow.disagree_symm : Std.Symm OpcodeRow.Disagree := ⟨fun _ _ => Ne.symm⟩

theorem OpcodeRow.not_disagree_of_matches {r r' : OpcodeRow} (h : r.matches w = true) (h' : r'.matches w = true) :
    ¬ r.Disagree r' := by
  simp only [OpcodeRow.matches, beq_iff_eq] at h h'
  rw [not_not, ← h, ← h', BitVec.and_assoc, BitVec.and_assoc, BitVec.and_comm r.mask]

theorem opcodeTable_pairwise_disagree : opcodeTable.Pairwise OpcodeRow.Disagree := by
  decide

theorem opcodeRow_unique {r r' : OpcodeRow} (hr : r ∈ opcodeTable) (hr' : r' ∈ opcodeTable)
    (h : r.matches w = true) (h' : r'.matches w = true) : r = r' := by
  have := OpcodeRow.disagree_symm
  by_contra hne
  exact OpcodeRow.not_disagree_of_matches h h' (opcodeTable_pairwise_disagree.forall hr hr' hne)

end

/-- Settles O3: the words that decode and the words of the table's rows are both the encoded words, and each two rows
differ in a bit that both masks keep. -/
theorem decoderAcceptsExactlyTheTableWords : Obligations.DecoderAcceptsExactlyTheTableWords := by
  unfold Obligations.DecoderAcceptsExactlyTheTableWords
  refine ⟨fun w => ⟨?_, fun h => ?_⟩, fun _ _ _ => opcodeRow_unique⟩
  · rintro ⟨i, h⟩
    rw [← encode_of_decode h]
    exact recognized_encode i
  · obtain ⟨i, rfl⟩ := exists_encode_of_recognized h
    exact ⟨i, decode_encode i⟩

/-- Settles O4, by running the decoder on the fixed words. -/
theorem writtenOutWordsDecode : Obligations.WrittenOutWordsDecode := by
  unfold Obligations.WrittenOutWordsDecode
  decide

end Sys2Proof
end

section
/-! SUPPORT. The statements on the step cycle: a state with no step, a fetch outside the window, an unrecognized word,
what a step reports, and the fields only the instructions the spec names write (spec/40_step_cycle.md R67 to R75). -/

namespace Sys2Proof.Machine

/-! ### The steps that run no instruction (R68, R69, R71) -/

theorem step_of_fault {s : State} {r : FaultRecord} (h : s.fault = some r) : step s = .fault (.stopped r) := by
  simp [step, h]

theorem step_of_not_pcInWindow {s : State} (hf : s.fault = none) (hw : s.pcInWindow = false) :
    step s = raiseFault s .pcOutOfRange s.pc.toNat := by
  simp [step, hf, hw]

theorem step_of_decode_error {s : State} {e : Reject} (hf : s.fault = none) (hw : s.pcInWindow = true)
    (hd : decode s.fetchWord = .error e) : step s = unrecognized s := by
  simp [step, hf, hw, hd]

theorem recognized_of_decode {w : Word} {i : Instr} (h : decode w = .ok i) : recognized w = true :=
  encode_of_decode h ▸ recognized_encode i

theorem exists_decode_error {w : Word} (h : recognized w = false) : ∃ e, decode w = .error e := by
  cases hd : decode w with
  | error e => exact ⟨e, rfl⟩
  | ok i => simp [recognized_of_decode hd] at h

/-- Settles O9: the step looks at the fault record first. -/
theorem faultedStateHasNoStep : Obligations.FaultedStateHasNoStep := by
  unfold Obligations.FaultedStateHasNoStep
  intro s r h
  exact step_of_fault h

/-- Settles O8: a PC outside the bounds of R69 fails the window's check, whose fault is taken precisely. -/
theorem fetchOutsideTheWindowFaults : Obligations.FetchOutsideTheWindowFaults := by
  unfold Obligations.FetchOutsideTheWindowFaults
  intro s hf hpc
  have hw : s.pcInWindow = false := by
    rw [Bool.eq_false_iff, Ne, State.pcInWindow_iff]
    omega
  rw [step_of_not_pcInWindow hf hw]
  exact raiseFault_taken s .pcOutOfRange s.pc.toNat

/-- Settles O7: a word of no row of the table is refused by the decoder, since a word that decodes is an instruction's
and so in the table. -/
theorem unrecognizedWordIsInvalid : Obligations.UnrecognizedWordIsInvalid := by
  unfold Obligations.UnrecognizedWordIsInvalid
  intro s hf hw hrec
  obtain ⟨e, hd⟩ := exists_decode_error hrec
  exact step_of_decode_error hf hw hd

/-- Settles O12: a fault and an unrecognized word make no request, and an instruction that completes reports no fault
and at most the one request of its advance. -/
theorem stepReportsAreSound : Obligations.StepReportsAreSound := by
  unfold Obligations.StepReportsAreSound
  intro s t h
  exact step_reportSound h

/-! ### The fields an instruction writes (R75) -/

/-- `s` with the fields of `t` an instruction `i` may write (R17, R75): PC, the registers, the record and the results
for every instruction, the other fields for their named writers only. -/
def State.writtenBy (i : Instr) (s t : State) : State :=
  let u := { s with pc := t.pc, v := t.v, fault := t.fault, outcome := t.outcome, requests := t.requests }
  match i with
  | .ret | .call _ => { u with sp := t.sp, stack := t.stack }
  | .ldI _ | .addI _ | .ldF _ | .ldVMem _ => u.setI t.i
  | .ldB _ => u.setMem t.mem
  | .ldMemV _ => (u.setMem t.mem).setI t.i
  | .ldDtV _ => u.setDt t.dt
  | .ldStV _ => u.setSt t.st
  | .rnd _ _ | .drw _ _ _ => { u with draws := t.draws }
  | _ => u

theorem eq_writtenBy_of_raiseFault {i : Instr} {s t : State} {c : FaultCause} {n : Nat}
    (h : raiseFault s c n = .next t) : t = s.writtenBy i t := by
  obtain rfl := (raiseFault_eq_next ..).1 h
  cases i <;> rfl

theorem eq_of_logicResult {s t : State} {x : Nibble} {r : Byte} (h : logicResult s x r = .next t) :
    t = { s with pc := t.pc, v := t.v, fault := t.fault, outcome := t.outcome, requests := t.requests } := by
  obtain rfl := (done_eq_next ..).1 h
  unfold State.logicFlag
  split <;> rfl

/-- An instruction changes no field but those `State.writtenBy` takes from the next state. -/
theorem exec_eq_writtenBy {i : Instr} {s t : State} (h : exec i s = .next t) : t = s.writtenBy i t := by
  cases i
  case ret | call nnn =>
    simp only [exec, execRet, execCall] at h
    split at h
    · exact eq_writtenBy_of_raiseFault h
    · split at h
      · obtain rfl := (done_eq_next ..).1 h
        rfl
      · cases h
  case skp x | sknp x =>
    simp only [exec, execSkp, execSknp, skipOnKey] at h
    split at h
    · obtain rfl := (done_eq_next ..).1 h
      rfl
    · exact eq_writtenBy_of_raiseFault h
  case ldVK x =>
    simp only [exec, execLdVK] at h
    split at h
    · cases h
      rfl
    · obtain rfl := (done_eq_next ..).1 h
      rfl
  case drw x y n | ldB x | ldMemV x | ldVMem x =>
    simp only [exec, execDrw, execLdB, execLdMemV, execLdVMem] at h
    split at h
    · exact eq_writtenBy_of_raiseFault h
    · obtain rfl := (done_eq_next ..).1 h
      rfl
  case orReg x y | andReg x y | xorReg x y => exact eq_of_logicResult h
  -- The rest always complete, by updates of the fields they are named for.
  all_goals
    obtain rfl := (done_eq_next ..).1 h
    rfl

section
variable {i : Instr} {s t : State}

theorem State.writtenBy_dt (hi : ∀ x, i ≠ .ldDtV x) : (s.writtenBy i t).dt = s.dt := by
  cases i
  case ldDtV x => exact absurd rfl (hi x)
  all_goals rfl

theorem State.writtenBy_st (hi : ∀ x, i ≠ .ldStV x) : (s.writtenBy i t).st = s.st := by
  cases i
  case ldStV x => exact absurd rfl (hi x)
  all_goals rfl

theorem State.writtenBy_stack (hcall : ∀ nnn, i ≠ .call nnn) (hret : i ≠ .ret) :
    (s.writtenBy i t).sp = s.sp ∧ (s.writtenBy i t).stack = s.stack := by
  cases i
  case call nnn => exact absurd rfl (hcall nnn)
  case ret => exact absurd rfl hret
  all_goals exact ⟨rfl, rfl⟩

theorem State.writtenBy_i (hldI : ∀ nnn, i ≠ .ldI nnn)
    (hi : ∀ x, i ≠ .addI x ∧ i ≠ .ldF x ∧ i ≠ .ldMemV x ∧ i ≠ .ldVMem x) : (s.writtenBy i t).i = s.i := by
  cases i
  case ldI nnn => exact absurd rfl (hldI nnn)
  case addI x | ldF x | ldMemV x | ldVMem x => simpa using hi x
  all_goals rfl

theorem State.writtenBy_draws (hrnd : ∀ x kk, i ≠ .rnd x kk) (hdrw : ∀ x y n, i ≠ .drw x y n) :
    (s.writtenBy i t).draws = s.draws := by
  cases i
  case rnd x kk => exact absurd rfl (hrnd x kk)
  case drw x y n => exact absurd rfl (hdrw x y n)
  all_goals rfl

theorem State.writtenBy_mem (hldB : ∀ x, i ≠ .ldB x) (hldMemV : ∀ x, i ≠ .ldMemV x) :
    (s.writtenBy i t).mem = s.mem := by
  cases i
  case ldB x => exact absurd rfl (hldB x)
  case ldMemV x => exact absurd rfl (hldMemV x)
  all_goals rfl

/-- The key fields and a step's arguments have no writer among the instructions (R29, R30, R68). -/
theorem State.writtenBy_inputs :
    (s.writtenBy i t).keyStates = s.keyStates ∧ (s.writtenBy i t).lastKey = s.lastKey ∧
    (s.writtenBy i t).quirks = s.quirks ∧ (s.writtenBy i t).platform = s.platform := by
  cases i <;> exact ⟨rfl, rfl, rfl, rfl⟩

end

/-! ### The bytes an instruction stores to (R39) -/

/-- Bytes stored at I, once their addresses are checked, leave every other byte alone. -/
theorem State.read_writeBytes_outside {s : State} {bs : List Byte} {a : Nat} (hc : s.writeCheck bs.length = none)
    (ha : ¬ (s.i.toNat ≤ a ∧ a < s.i.toNat + bs.length)) :
    Memory.read (Memory.writeBytes s.mem s.i.toNat bs) a = s.readByte a := by
  obtain hn | hle := State.writeCheck_none hc
  · rw [List.length_eq_zero_iff.1 hn]
    rfl
  · exact Memory.read_writeBytes_outside s.mem hle ha

theorem readByte_of_exec {i : Instr} {s t : State} {a : Nat} (h : exec i s = .next t)
    (ha : ¬ ((storedBytes s i).1 ≤ a ∧ a < (storedBytes s i).1 + (storedBytes s i).2)) :
    t.readByte a = s.readByte a := by
  have hmem : t.mem = (s.writtenBy i t).mem := congrArg State.mem (exec_eq_writtenBy h)
  cases i
  case ldB x =>
    simp only [exec, execLdB] at h
    split at h
    · obtain rfl := (raiseFault_eq_next ..).1 h
      rfl
    · next hc =>
      obtain rfl := (done_eq_next ..).1 h
      exact State.read_writeBytes_outside (bs := bcdDigits (s.getV x)) hc ha
  case ldMemV x =>
    simp only [exec, execLdMemV] at h
    split at h
    · obtain rfl := (raiseFault_eq_next ..).1 h
      rfl
    · next hc =>
      obtain rfl := (done_eq_next ..).1 h
      exact State.read_writeBytes_outside (bs := s.regBytes x) (by rw [length_regBytes]; exact hc)
        (by rw [length_regBytes]; exact ha)
  all_goals exact congrArg (Memory.read · a) (hmem.trans (State.writtenBy_mem nofun nofun))

/-- Settles O17: the next state is `State.writtenBy` the instruction, which takes each field from the next state for its
named writers only, and the bytes stored are those whose addresses were checked. -/
theorem onlyTheNamedInstructionsWrite : Obligations.OnlyTheNamedInstructionsWrite := by
  unfold Obligations.OnlyTheNamedInstructionsWrite
  intro i s t h
  have ht := exec_eq_writtenBy h
  refine ⟨fun hi => ?dt, fun hi => ?st, fun hcall hret => ?stack, fun hldI hi => ?index, fun a ha => ?mem,
    fun hrnd hdrw => ?draws, ?inputs⟩
  case mem => exact readByte_of_exec h ha
  all_goals rw [ht]
  case dt => exact State.writtenBy_dt hi
  case st => exact State.writtenBy_st hi
  case stack => exact State.writtenBy_stack hcall hret
  case index => exact State.writtenBy_i hldI hi
  case draws => exact State.writtenBy_draws hrnd hdrw
  case inputs => exact State.writtenBy_inputs

end Sys2Proof.Machine
end

section
/-! SUPPORT. The statements on control flow: the jumps and the fetch after them, the stack controller of CALL and RET,
and the compare skips (spec/41_control_flow.md R77 to R84). -/

namespace Sys2Proof.Machine

/-! ### Jumps (R78, R84) -/

/-- A jump: PC takes the target unchecked and nothing else changes; a target outside the window faults at the fetch
after it (R20, R69; D5). -/
theorem jump_next (s : State) (target : Word) :
    ∃ t, done (s.setPc target) [] = .next t ∧ t.pc = target ∧ Quiet t ∧ Unchanged {} s t ∧
      (s.fault = none → (target.toNat < s.platform.pcMin.toNat ∨ 0xFFF < target.toNat + 1) →
        ∃ u, step t = .next u ∧ FaultTaken .pcOutOfRange target.toNat t u) :=
  ⟨_, rfl, rfl, quiet_report _, unchanged_of_regs (fun _ _ => rfl) rfl,
    fun hf hout => fetchOutsideTheWindowFaults _ hf hout⟩

/-- The target of Bnnn never wraps: it is at most 0xFFF + 0xFF (R20, R84). -/
theorem toNat_zextAddr_add_zextByte (nnn : Addr) (b : Byte) :
    (zextAddr nnn + zextByte b).toNat = nnn.toNat + b.toNat := by
  have hn := nnn.isLt
  have hb := b.isLt
  rw [BitVec.toNat_add, toNat_zextAddr, toNat_zextByte]
  omega

/-- Settles O21: JP is a jump to nnn, and a word at nnn = 0xFFF would end above memory. -/
theorem jpSetsThePc : Obligations.JpSetsThePc := by
  unfold Obligations.JpSetsThePc
  refine ⟨fun w hw => decode_family1 hw, fun nnn s => ?_⟩
  obtain ⟨t, ht, hpc, hquiet, hframe, hfetch⟩ := jump_next s (zextAddr nnn)
  rw [toNat_zextAddr] at hfetch
  refine ⟨t, ht, by rw [hpc, toNat_zextAddr], hquiet, hframe, fun hf hout => hfetch hf (hout.imp_right ?_)⟩
  rintro rfl
  decide

/-- Settles O28: JP V0 is a jump to nnn + V0, which does not wrap. -/
theorem jpV0AddsV0 : Obligations.JpV0AddsV0 := by
  unfold Obligations.JpV0AddsV0
  refine ⟨fun w hw => decode_familyB hw, fun nnn s => ?_⟩
  obtain ⟨t, ht, hpc, hquiet, hframe, hfetch⟩ := jump_next s (zextAddr nnn + zextByte (s.getV 0))
  rw [toNat_zextAddr_add_zextByte] at hfetch
  exact ⟨t, ht, by rw [hpc, toNat_zextAddr_add_zextByte], hquiet, hframe,
    fun hf hout => hfetch hf (.inr (by omega))⟩

/-! ### CALL and RET by the value of SP (R77, R79) -/

section
variable {s : State} (nnn : Addr)

theorem exec_call_of_lt (h : s.sp.toNat < 16) :
    exec (.call nnn) s = done ((s.push h s.pc).setPc (zextAddr nnn)) [] := by
  have hne : s.sp ≠ 16 := by bv_omega
  exact (if_neg hne).trans (dif_pos h)

theorem exec_call_full (h : s.sp.toNat = 16) : exec (.call nnn) s = raiseFault s .stackOverflow s.pc.toNat :=
  if_pos (BitVec.eq_of_toNat_eq h)

theorem exec_call_above (h : 16 < s.sp.toNat) : exec (.call nnn) s = .fault (.stackPointerInvalid s.sp) := by
  have hne : s.sp ≠ 16 := by bv_omega
  exact (if_neg hne).trans (dif_neg (by omega))

theorem exec_ret_of_pos (h0 : 0 < s.sp.toNat) (h : s.sp.toNat - 1 < 16) :
    exec .ret s = done (s.pop.setPc (s.top h + 2)) [] := by
  have hne : s.sp ≠ 0 := by bv_omega
  exact (if_neg hne).trans (dif_pos h)

theorem exec_ret_empty (h : s.sp.toNat = 0) : exec .ret s = raiseFault s .stackUnderflow s.pc.toNat :=
  if_pos (BitVec.eq_of_toNat_eq h)

theorem exec_ret_above (h : 16 < s.sp.toNat) : exec .ret s = .fault (.stackPointerInvalid s.sp) := by
  have hne : s.sp ≠ 0 := by bv_omega
  exact (if_neg hne).trans (dif_neg (by omega))

end

/-! ### The stack controller (R24) -/

/-- A state that differs from `s` in PC, SP and the stack only meets the frame of a push or a pop. -/
theorem unchanged_of_stack {s t : State}
    (h : { t with sp := s.sp, stack := s.stack, pc := s.pc, outcome := s.outcome, requests := s.requests } = s) :
    Unchanged { stack := true } s t := by
  obtain ⟨⟩ := s
  obtain ⟨⟩ := t
  simp only [State.mk.injEq] at h
  simp_all [Unchanged, State.readByte, State.getV]

theorem State.toNat_sp_push {s : State} (h : s.sp.toNat < 16) (w : Word) :
    (s.push h w).sp.toNat = s.sp.toNat + 1 := by
  rw [State.push_sp]
  bv_omega

theorem State.toNat_sp_pop {s : State} (h : 0 < s.sp.toNat) : s.pop.sp.toNat = s.sp.toNat - 1 := by
  rw [State.pop_sp]
  bv_omega

/-- On a stack as a push left it, the pushed word is on top. -/
theorem State.top_of_push {s u : State} {w : Word} (h : s.sp.toNat < 16) (hsp : u.sp = (s.push h w).sp)
    (hstack : u.stack = (s.push h w).stack) (hu : u.sp.toNat - 1 < 16) : u.top hu = w := by
  have hidx : u.sp.toNat - 1 = s.sp.toNat := by rw [hsp, State.toNat_sp_push, Nat.add_sub_cancel]
  simp [State.top, hidx, hstack]

/-- Settles O22: with an entry free, CALL is a push of PC at the old SP and a jump. -/
theorem callPushesAndJumps : Obligations.CallPushesAndJumps := by
  unfold Obligations.CallPushesAndJumps
  refine ⟨fun w hw => decode_family2 hw, fun nnn s h => ⟨_, exec_call_of_lt nnn h, toNat_zextAddr nnn,
    State.toNat_sp_push h s.pc, ?entry, ?others, quiet_report _, unchanged_of_stack rfl⟩⟩
  case entry => exact Vector.getElem_set_self h
  case others => exact fun j hj hne => Vector.getElem_set_ne h hj hne.symm

/-- Settles O23: with an entry in use, RET is a pop and a jump to two past the entry on top. -/
theorem retPopsAndReturns : Obligations.RetPopsAndReturns := by
  unfold Obligations.RetPopsAndReturns
  exact ⟨by decide, fun s h0 h => ⟨_, exec_ret_of_pos h0 (by omega), State.toNat_sp_pop h0, rfl, rfl,
    quiet_report _, unchanged_of_stack rfl⟩⟩

/-- Settles O24: SP = 16, SP = 0 and SP above 16 are the cases of CALL and RET without an entry to use. -/
theorem stackBoundsFault : Obligations.StackBoundsFault := by
  unfold Obligations.StackBoundsFault
  refine fun nnn s => ⟨fun h => ?_, fun h => ?_, fun h => ⟨exec_call_above nnn h, exec_ret_above h⟩⟩
  · rw [exec_call_full nnn h]
    exact raiseFault_taken s _ _
  · rw [exec_ret_empty h]
    exact raiseFault_taken s _ _

/-- Settles O25: RET finds the CALL's own address on top of the stack the CALL left, and its pop undoes the push's
increment of SP. -/
theorem returnGoesToTheWordAfterTheCall : Obligations.ReturnGoesToTheWordAfterTheCall := by
  unfold Obligations.ReturnGoesToTheWordAfterTheCall
  intro nnn s t u h ht hsp hstack
  rw [exec_call_of_lt nnn h] at ht
  obtain rfl := (done_eq_next ..).1 ht
  have hn : u.sp.toNat = s.sp.toNat + 1 := hsp ▸ State.toNat_sp_push h s.pc
  have htop : u.top (by omega) = s.pc := State.top_of_push h hsp hstack _
  refine ⟨_, exec_ret_of_pos (by omega) (by omega), congrArg (· + 2) htop, ?_⟩
  calc u.sp - 1 = s.sp + 1 - 1 := congrArg (· - 1) hsp
    _ = s.sp := BitVec.add_sub_cancel _ _

/-! ### The compare skips (R73, R80 to R83) -/

theorem skip_of_eq (s : State) (a b : Byte) :
    ∃ t, done (s.skipIf (a == b)) [] = .next t ∧ t.pc = s.pc + (if a = b then 4 else 2) ∧ Quiet t ∧
      Unchanged {} s t := by
  simpa only [beq_iff_eq] using skip_next s (a == b)

theorem skip_of_ne (s : State) (a b : Byte) :
    ∃ t, done (s.skipIf (a != b)) [] = .next t ∧ t.pc = s.pc + (if a = b then 2 else 4) ∧ Quiet t ∧
      Unchanged {} s t := by
  simpa only [bne_iff_ne, ne_eq, ite_not] using skip_next s (a != b)

/-- Settles O26: SE and SNE with a byte are the skips on Vx = kk and on its negation. -/
theorem immediateSkips : Obligations.ImmediateSkips := by
  unfold Obligations.ImmediateSkips
  exact ⟨fun w => ⟨decode_family3, decode_family4⟩,
    fun x kk s => ⟨skip_of_eq s (s.getV x) kk, skip_of_ne s (s.getV x) kk⟩⟩

/-- Settles O27: SE and SNE with a register are the skips on Vx = Vy and on its negation, and the decoder refuses
another low nibble in both families. -/
theorem registerSkips : Obligations.RegisterSkips := by
  unfold Obligations.RegisterSkips
  refine ⟨fun w => ⟨fun hf hn => ?se, fun hf hn => ?sne, fun hf hn i => ?refused⟩,
    fun x y s => ⟨skip_of_eq s (s.getV x) (s.getV y), skip_of_ne s (s.getV x) (s.getV y)⟩⟩
  case se => rw [decode_family5 hf, if_pos hn]
  case sne => rw [decode_family9 hf, if_pos hn]
  case refused =>
    rcases hf with hf | hf
    · rw [decode_family5 hf, if_neg hn]
      nofun
    · rw [decode_family9 hf, if_neg hn]
      nofun

end Sys2Proof.Machine
end

section
/-! SUPPORT. The statements on register loads, the ALU and the random byte: each instruction as a use of the shared
load, logic or flag result (spec/42_register_alu.md R85 to R98). -/

namespace Sys2Proof

/-! ### A word of known family and low nibble decodes (R61, R62) -/

/-- The instruction that encodes to the word's family and low nibble with the word's own operand fields is the one the
decoder reads. -/
theorem decode_of_lowNibble {w : Word} {i : Instr} {f n : Nibble} (hf : fieldFamily w = f) (hn : fieldN w = n)
    (hi : encode i = encodeXyn f (fieldX w) (fieldY w) n) : decode w = .ok i := by
  rw [encodeXyn_of_subcode hf hn] at hi
  rw [← hi, decode_encode]

end Sys2Proof

namespace Sys2Proof.Machine

/-! ### Load results (R85 to R87) -/

/-- Settles O29: 6xkk is the load result of kk. -/
theorem ldImmLoadsTheByte : Obligations.LdImmLoadsTheByte := by
  unfold Obligations.LdImmLoadsTheByte
  exact ⟨fun _ => decode_family6, fun x kk s => loadResult_next s x kk⟩

/-- Settles O30: 7xkk is the load result of the sum, whose frame leaves VF out unless x = F. -/
theorem addImmWrapsWithoutFlag : Obligations.AddImmWrapsWithoutFlag := by
  unfold Obligations.AddImmWrapsWithoutFlag
  refine ⟨fun _ => decode_family7, fun x kk s => ?_⟩
  obtain ⟨t, ht, hx, hrest⟩ := loadResult_next s x (sumByte (s.getV x) kk)
  exact ⟨t, ht, by rw [hx, toNat_sumByte], hrest⟩

/-- Settles O31: 8xy0 is the load result of the old Vy. -/
theorem ldRegCopies : Obligations.LdRegCopies := by
  unfold Obligations.LdRegCopies
  exact ⟨fun _ hf hn => decode_of_lowNibble hf hn rfl, fun x y s => loadResult_next s x (s.getV y)⟩

/-! ### Logic results (R88 to R91) -/

/-- A frame that allows fewer registers is a frame that allows more. -/
theorem Unchanged.mono_regs {regs regs' : List Nibble} {s t : State} (h : Unchanged { regs := regs } s t)
    (hsub : regs ⊆ regs') : Unchanged { regs := regs' } s t :=
  h.imp_left fun hregs r hr => hregs r fun hmem => hr (hsub hmem)

/-- An instruction whose execution is a logic result completes as one, by the value of the toggle. -/
theorem logicCompletes_of_exec {i : Instr} {x : Nibble} {r : Byte} {s : State} (h : exec i s = logicResult s x r) :
    LogicCompletes i x r s := by
  obtain ⟨t, ht, hv, hpc, hquiet, hframe⟩ := logicResult_next s x r
  refine ⟨t, h.trans ht, ?result, ?cleared, ?kept, hpc, hquiet, hframe.mono_regs ?frame⟩
  case result =>
    rintro (hx | hq)
    · simp [hv, hx]
    · simp [hv, hq]
  case cleared => exact fun hq => by simp [hv, hq]
  case kept => exact fun hq hx => by simp [hv, hq, hx.symm]
  case frame => split <;> simp

/-- Settles O32: OR, AND and XOR are the logic results of the three bitwise operations. -/
theorem logicResultsAndVf : Obligations.LogicResultsAndVf := by
  unfold Obligations.LogicResultsAndVf
  exact ⟨fun _ hf => ⟨fun hn => decode_of_lowNibble hf hn rfl, fun hn => decode_of_lowNibble hf hn rfl,
      fun hn => decode_of_lowNibble hf hn rfl⟩,
    fun _ _ _ => ⟨logicCompletes_of_exec rfl, logicCompletes_of_exec rfl, logicCompletes_of_exec rfl⟩⟩

/-! ### Sums and differences: the flag is a condition on the operands (R92, R93, R96) -/

/-- A flag result whose flag is a condition, in numbers. -/
theorem flagResult_condition (s : State) (x : Nibble) {r : Byte} {n : Nat} (p : Prop) [Decidable p]
    (hr : r.toNat = n) :
    ∃ t, flagResult s x r (flagByte p) = .next t ∧ (x ≠ vf → (t.getV x).toNat = n) ∧
      t.getV vf = (if p then 1 else 0) ∧ t.pc = s.pc + 2 ∧ Quiet t ∧ Unchanged { regs := [x, vf] } s t := by
  obtain ⟨t, ht, hx, hflag, hrest⟩ := flagResult_next s x r (flagByte p)
  exact ⟨t, ht, fun hne => by rw [hx hne, hr], by simp [hflag, flagByte], hrest⟩

/-- Settles O33: 8xy4 is the flag result of the sum and of whether it exceeds 255. -/
theorem addRegSumAndCarry : Obligations.AddRegSumAndCarry := by
  unfold Obligations.AddRegSumAndCarry
  exact ⟨fun _ hf hn => decode_of_lowNibble hf hn rfl,
    fun x _ s => flagResult_condition s x _ (toNat_sumByte _ _)⟩

/-- Settles O34: 8xy5 and 8xy7 are the flag results of the two differences and of whether the subtrahend is at most the
minuend. -/
theorem subtractionsAndNotBorrow : Obligations.SubtractionsAndNotBorrow := by
  unfold Obligations.SubtractionsAndNotBorrow
  exact ⟨fun _ hf => ⟨fun hn => decode_of_lowNibble hf hn rfl, fun hn => decode_of_lowNibble hf hn rfl⟩,
    fun x _ s => ⟨flagResult_condition s x _ (toNat_diffByte _ _),
      flagResult_condition s x _ (toNat_diffByte _ _)⟩⟩

/-! ### Shifts: the flag is a bit of the source (R94, R95, R97) -/

theorem toNat_shiftRight_one (src : Byte) : (src >>> 1).toNat = src.toNat / 2 := by
  rw [BitVec.toNat_ushiftRight, Nat.shiftRight_eq_div_pow]

theorem toNat_shiftLeft_one (src : Byte) : (src <<< 1).toNat = 2 * src.toNat % 256 := by
  rw [BitVec.toNat_shiftLeft, Nat.shiftLeft_eq, Nat.mul_comm]

theorem toNat_shiftedOutRight (src : Byte) : (shiftedOutRight src).toNat = src.toNat % 2 := by
  rw [shiftedOutRight, BitVec.toNat_and]
  exact Nat.and_one_is_mod _

theorem toNat_shiftedOutLeft (src : Byte) : (shiftedOutLeft src).toNat = src.toNat / 128 := by
  rw [shiftedOutLeft, BitVec.toNat_ushiftRight, Nat.shiftRight_eq_div_pow]

/-- A flag result in numbers. -/
theorem flagResult_toNat (s : State) (x : Nibble) {r f : Byte} {n m : Nat} (hr : r.toNat = n) (hf : f.toNat = m) :
    ∃ t, flagResult s x r f = .next t ∧ (x ≠ vf → (t.getV x).toNat = n) ∧ (t.getV vf).toNat = m ∧
      t.pc = s.pc + 2 ∧ Quiet t ∧ Unchanged { regs := [x, vf] } s t := by
  obtain ⟨t, ht, hx, hflag, hrest⟩ := flagResult_next s x r f
  exact ⟨t, ht, fun hne => by rw [hx hne, hr], by rw [hflag, hf], hrest⟩

/-- Settles O35: 8xy6 and 8xyE are the flag results of the source shifted by one and of its lowest and highest bit. -/
theorem shiftsAndTheBitShiftedOut : Obligations.ShiftsAndTheBitShiftedOut := by
  unfold Obligations.ShiftsAndTheBitShiftedOut
  refine ⟨fun _ hf => ⟨fun hn => decode_of_lowNibble hf hn rfl, fun hn => decode_of_lowNibble hf hn rfl⟩,
    fun x y s src hsrc => ?_⟩
  obtain rfl : src = s.shiftSource x y := hsrc
  exact ⟨flagResult_toNat s x (toNat_shiftRight_one _) (toNat_shiftedOutRight _),
    flagResult_toNat s x (toNat_shiftLeft_one _) (toNat_shiftedOutLeft _)⟩

/-! ### The random byte (R98) -/

/-- The frame of a step that takes a draw first: one draw more, and otherwise the frame after the draw (R12). -/
theorem unchanged_of_countDraw {regs : List Nibble} {s t : State} (h : Unchanged { regs := regs } s.countDraw t) :
    t.draws = s.draws + 1 ∧ Unchanged { regs := regs, draws := true } s t := by
  obtain ⟨hregs, hindex, hstack, hdt, hst, hdraws, hrest⟩ := h
  exact ⟨hdraws rfl, hregs, hindex, hstack, hdt, hst, nofun, hrest⟩

/-- Settles O36: Cxkk is the load result of the masked byte on the state with one draw more. -/
theorem rndMasksTheDrawnByte : Obligations.RndMasksTheDrawnByte := by
  unfold Obligations.RndMasksTheDrawnByte
  refine ⟨fun _ => decode_familyC, fun x kk s => ?_⟩
  obtain ⟨t, ht, hx, hpc, hquiet, hframe⟩ := loadResult_next s.countDraw x (Config.randomByte s.draws &&& kk)
  obtain ⟨hdraws, hframe'⟩ := unchanged_of_countDraw hframe
  refine ⟨t, ht, hx, ?zero, ?masked, hdraws, hpc, hquiet, hframe'⟩
  case zero =>
    rintro rfl
    exact hx.trans BitVec.and_zero
  case masked =>
    rw [hx, BitVec.and_assoc, BitVec.and_not_self]
    exact BitVec.and_zero

end Sys2Proof.Machine
end

section
/-! SUPPORT. The statements on the index register and the memory transfers: each instruction as one update of I, the
registers or memory, followed by `advance` (spec/43_index_memory.md R99 to R104). -/

namespace Sys2Proof

/-! ### A word of known family and low byte decodes (R64) -/

/-- The instruction that encodes to the word's family and low byte with the word's own x is the one the decoder
reads. -/
theorem decode_of_lowByte {w : Word} {i : Instr} {f : Nibble} {kk : Byte} (hf : fieldFamily w = f)
    (hk : fieldKk w = kk) (hi : encode i = encodeXkk f (fieldX w) kk) : decode w = .ok i := by
  rw [encodeXkk_of_subcode hf hk] at hi
  rw [← hi, decode_encode]

end Sys2Proof

namespace Sys2Proof.Machine

/-! ### The frame of an instruction that advances (R75) -/

/-- What an instruction may change besides PC and the step's results: the registers of R17, the bytes of R39, and every
other field for its named writers. -/
def touchedBy (s : State) (i : Instr) : Touched where
  regs := writtenRegs s.quirks i
  index := match i with | .ldI _ | .addI _ | .ldF _ | .ldMemV _ | .ldVMem _ => true | _ => false
  stack := match i with | .call _ | .ret => true | _ => false
  dt := match i with | .ldDtV _ => true | _ => false
  st := match i with | .ldStV _ => true | _ => false
  draws := match i with | .rnd _ _ | .drw _ _ _ => true | _ => false
  memFrom := (storedBytes s i).1
  memLen := (storedBytes s i).2

/-- An instruction that advances has taken no fault. -/
theorem fault_of_exec_advanced {i : Instr} {s t : State} (h : exec i s = .next t) (ho : t.outcome = some .advanced) :
    t.fault = s.fault := by
  obtain ⟨hf, -⟩ | ⟨c, n, hr⟩ := (exec_ends i s).next_cases h
  · exact hf
  · obtain rfl := (raiseFault_eq_next ..).1 hr
    cases ho

/-- The frame of any instruction that advances: the registers and the fields that have no other writers, as one
`Unchanged`. -/
theorem exec_unchanged {i : Instr} {s t : State} (h : exec i s = .next t) (ho : t.outcome = some .advanced) :
    Unchanged (touchedBy s i) s t := by
  obtain ⟨hdt, hst, hstack, hindex, hmem, hdraws, hkeys, hlast, hquirks, hplatform⟩ :=
    onlyTheNamedInstructionsWrite i s t h
  refine ⟨onlyTheListedRegistersAreWritten i s t h, fun hi => hindex (fun _ => ?ldI) fun _ =>
      ⟨?addI, ?ldF, ?ldMemV, ?ldVMem⟩, fun hi => hstack (fun _ => ?call) ?ret, fun hi => hdt fun _ => ?ldDtV,
    fun hi => hst fun _ => ?ldStV, fun hi => hdraws (fun _ _ => ?rnd) (fun _ _ _ => ?drw), hmem, hkeys, hlast,
    fault_of_exec_advanced h ho, hquirks, hplatform⟩
  -- A named writer's frame allows the field.
  all_goals
    rintro rfl
    cases hi

/-- How an instruction that ends with `advance` and no request completes: PC goes on to the next word, the step is
quiet, and the frame is the instruction's own. -/
theorem exec_advances {i : Instr} {s u : State} (h : exec i s = done u.advance []) (hpc : u.pc = s.pc := by simp) :
    (u.advance.report .advanced []).pc = s.pc + 2 ∧ Quiet (u.advance.report .advanced []) ∧
      Unchanged (touchedBy s i) s (u.advance.report .advanced []) :=
  ⟨congrArg (· + 2) hpc, quiet_report _, exec_unchanged h rfl⟩

/-! ### I (R99 to R101) -/

/-- Settles O37: Annn is the update of I to nnn. -/
theorem ldISetsTheIndex : Obligations.LdISetsTheIndex := by
  unfold Obligations.LdISetsTheIndex
  exact ⟨fun _ => decode_familyA,
    fun nnn _ => ⟨_, rfl, toNat_zextAddr nnn, exec_advances (i := .ldI nnn) rfl⟩⟩

/-- Settles O39: Fx29 is the update of I to the glyph's address, which 16 bits hold for every byte. -/
theorem ldFPointsAtTheGlyph : Obligations.LdFPointsAtTheGlyph := by
  unfold Obligations.LdFPointsAtTheGlyph
  exact ⟨fun _ hf hk => decode_of_lowByte hf hk rfl,
    fun x s => ⟨_, rfl, toNat_glyphAddress (s.getV x), exec_advances (i := .ldF x) rfl⟩⟩

theorem toNat_add_zextByte (w : Word) (b : Byte) : (w + zextByte b).toNat = (w.toNat + b.toNat) % 65536 := by
  rw [BitVec.toNat_add, toNat_zextByte]

/-- Settles O38: Fx1E puts the sum into I and, last, the range flag of that sum into VF, so VF holds the flag also where
it was the operand. -/
theorem addISumAndRangeFlag : Obligations.AddISumAndRangeFlag := by
  unfold Obligations.AddISumAndRangeFlag
  refine ⟨fun _ hf hk => decode_of_lowByte hf hk rfl, fun x s => ?_⟩
  have hsum := toNat_add_zextByte s.i (s.getV x)
  refine ⟨_, rfl, hsum, ?flag, exec_advances (i := .addI x) rfl⟩
  case flag => simp [rangeFlag, flagByte, hsum]

/-! ### Fx33: the decimal digits (R102) -/

/-- Fx33 where every address exists and LOW_WRITE forbids none (R102). -/
theorem exec_ldB_of_le (x : Nibble) {s : State} (h : s.i.toNat + 2 ≤ 0xFFF)
    (hlow : s.platform.lowWrite = .fault → 0x200 ≤ s.i.toNat) :
    exec (.ldB x) s = done (s.setMem (Memory.writeBytes s.mem s.i.toNat (bcdDigits (s.getV x)))).advance [] := by
  have hc : s.writeCheck 3 = none := by
    rw [State.writeCheck_eq s _ hlow, if_pos (.inr (by omega))]
  simp only [exec, execLdB, hc]

theorem readByte_of_exec_ldB {x : Nibble} {s t : State} (h : exec (.ldB x) s = .next t)
    (hi : s.i.toNat + 2 ≤ 0xFFF) (hlow : s.platform.lowWrite = .fault → 0x200 ≤ s.i.toNat) {k : Nat} {b : Byte}
    (hb : (bcdDigits (s.getV x))[k]? = some b) : t.readByte (s.i.toNat + k) = b := by
  rw [exec_ldB_of_le x hi hlow] at h
  obtain rfl := (done_eq_next ..).1 h
  have hroom : s.i.toNat + (bcdDigits (s.getV x)).length ≤ memSize := by
    rw [length_bcdDigits]
    unfold memSize
    omega
  simp [Memory.read_writeBytes _ _ _ _ hroom, hb]

/-- Each digit of a byte is itself a byte. -/
theorem toNat_digits (b : Byte) :
    (BitVec.ofNat 8 (b.toNat / 100)).toNat = b.toNat / 100 ∧
    (BitVec.ofNat 8 (b.toNat / 10 % 10)).toNat = b.toNat / 10 % 10 ∧
    (BitVec.ofNat 8 (b.toNat % 10)).toNat = b.toNat % 10 := by
  have hb := b.isLt
  simp only [BitVec.toNat_ofNat]
  omega

/-- Settles O40: Fx33 stores the digits of Vx, and every digit of a byte is a byte. -/
theorem ldBStoresTheDigits : Obligations.LdBStoresTheDigits := by
  unfold Obligations.LdBStoresTheDigits
  refine ⟨fun _ hf hk => decode_of_lowByte hf hk rfl, fun x s hi hlow => ?_⟩
  have hexec := exec_ldB_of_le x hi hlow
  obtain ⟨hundreds, tens, ones⟩ := toNat_digits (s.getV x)
  refine ⟨_, hexec, ?hundreds, ?tens, ?ones, exec_advances hexec⟩
  case hundreds => exact (congrArg BitVec.toNat (readByte_of_exec_ldB (k := 0) hexec hi hlow rfl)).trans hundreds
  case tens => exact (congrArg BitVec.toNat (readByte_of_exec_ldB (k := 1) hexec hi hlow rfl)).trans tens
  case ones => exact (congrArg BitVec.toNat (readByte_of_exec_ldB (k := 2) hexec hi hlow rfl)).trans ones

/-! ### Fx55 and Fx65: the registers to and from memory (R103, R104) -/

/-- I after a transfer whose addresses exist: the advance by x + 1 does not wrap (D12). -/
theorem State.toNat_indexAfter {s : State} {x : Nibble} (h : s.i.toNat + x.toNat ≤ 0xFFF) :
    (s.indexAfter x).toNat = if s.quirks.lsKeepI = true then s.i.toNat else s.i.toNat + x.toNat + 1 := by
  unfold State.indexAfter
  split
  · rfl
  · rw [BitVec.toNat_add, BitVec.toNat_ofNat, regCount]
    omega

/-- Settles O41: Fx55 stores V0 to Vx, and I after it is `indexAfter`, which does not wrap. -/
theorem ldMemVStoresTheRegisters : Obligations.LdMemVStoresTheRegisters := by
  unfold Obligations.LdMemVStoresTheRegisters
  refine ⟨fun _ hf hk => decode_of_lowByte hf hk rfl, fun x s hi hlow => ?_⟩
  have hexec := exec_ldMemV_of_le x hi hlow
  exact ⟨_, hexec, fun k hk => readByte_of_exec_ldMemV hexec hi hlow hk, State.toNat_indexAfter hi,
    exec_advances hexec⟩

/-- Settles O42: Fx65 loads V0 to Vx, and I after it is `indexAfter`, which does not wrap. -/
theorem ldVMemLoadsTheRegisters : Obligations.LdVMemLoadsTheRegisters := by
  unfold Obligations.LdVMemLoadsTheRegisters
  refine ⟨fun _ hf hk => decode_of_lowByte hf hk rfl, fun x s hi => ?_⟩
  have hexec := exec_ldVMem_of_le x hi
  exact ⟨_, hexec, fun k hk => getV_of_exec_ldVMem hexec hi hk, State.toNat_indexAfter hi,
    exec_advances hexec⟩

end Sys2Proof.Machine
end

section
/-! SUPPORT. The statements on the display requests, the keys and the timers, and on an Fx0A that waits for a key
(spec/44_display_input_timers.md R105 to R112, spec/60_exceptions.md R120, R132). -/

namespace Sys2Proof.Machine

/-! ### Display requests (R105, R106, R120) -/

/-- Settles O46: 00E0 is an advance with the clear request. -/
theorem clsRequestsOneClear : Obligations.ClsRequestsOneClear := by
  unfold Obligations.ClsRequestsOneClear
  exact ⟨by decide, fun _ => ⟨_, rfl, rfl, rfl, rfl, exec_unchanged (i := .cls) rfl rfl⟩⟩

/-- A sprite with no bit set collides with nothing (R120). -/
theorem collisionAnswer_of_blank {bytes : List Byte} (h : ∀ b ∈ bytes, b = 0) (k : Nat) :
    collisionAnswer k bytes = false := by
  have hany : bytes.any (· != 0) = false := List.any_eq_false.2 fun b hb => by simp [h b hb]
  rw [collisionAnswer, hany, Bool.false_and]

/-- For any other sprite the answer is free (R106; log entry 7). -/
theorem collisionAnswer_of_bit {bytes : List Byte} (h : ∃ b ∈ bytes, b ≠ 0) (k : Nat) :
    collisionAnswer k bytes = Config.collision k := by
  obtain ⟨b, hb, hne⟩ := h
  have hany : bytes.any (· != 0) = true := List.any_eq_true.2 ⟨b, hb, bne_iff_ne.2 hne⟩
  rw [collisionAnswer, hany, Bool.true_and]

/-- Dxyn where every address exists or none is needed (R106). -/
theorem exec_drw_of_le (x y : Nibble) {n : Nibble} {s : State} (h : n = 0 ∨ s.i.toNat + n.toNat - 1 ≤ 0xFFF) :
    exec (.drw x y n) s =
      drawWith (collisionAnswer s.draws (Memory.readBytes s.mem s.i.toNat n.toNat))
        (Memory.readBytes s.mem s.i.toNat n.toNat) x y n s := by
  have hc : s.readCheck n.toNat = none := by
    rw [State.readCheck_eq, if_pos]
    exact h.imp (congrArg BitVec.toNat) (by omega)
  simp only [exec, execDrw, hc]

/-- Settles O47: where the bytes exist, Dxyn reads them at I, and VF holds the answer of this draw. -/
theorem drwRequestsTheSprite : Obligations.DrwRequestsTheSprite := by
  unfold Obligations.DrwRequestsTheSprite
  refine ⟨fun _ => decode_familyD, fun x y n s h => ?_⟩
  have hexec := exec_drw_of_le x y h
  refine ⟨_, _, _, hexec, Memory.length_readBytes _ _ _, fun k => Memory.getElem_readBytes _ _ _ k, rfl, rfl, ?answer,
    fun hb => collisionAnswer_of_blank hb _, fun hb => collisionAnswer_of_bit hb _, rfl, rfl,
    exec_unchanged hexec rfl⟩
  case answer => exact State.getV_setV_same s.countDraw vf _

/-! ### The key skips (R107, R108) -/

theorem isKey_iff (k : Byte) : isKey k = true ↔ k.toNat < 16 := by
  rw [isKey, decide_eq_true_iff, BitVec.le_def]
  exact Nat.lt_succ_iff.symm

theorem toNat_keyOfByte {k : Byte} (h : k.toNat < 16) : (keyOfByte k).toNat = k.toNat := by
  rw [keyOfByte, BitVec.toNat_setWidth, Nat.mod_eq_of_lt h]

/-- A register below 16 names the key whose state decides the skip. -/
theorem skipOnKey_of_lt {k : Byte} (h : k.toNat < 16) (wanted : Bool) (s : State) :
    skipOnKey k wanted s = done (s.skipIf (s.keyStates[k.toNat] == wanted)) [] := by
  simp only [skipOnKey, (isKey_iff k).2 h, State.keyDown, toNat_keyOfByte h, if_true]

/-- A register above 15 names no key (D15). -/
theorem skipOnKey_above {k : Byte} (h : 15 < k.toNat) (wanted : Bool) (s : State) :
    skipOnKey k wanted s = raiseFault s .keyOutOfRange k.toNat :=
  if_neg fun hk => absurd ((isKey_iff k).1 hk) (by omega)

/-- Settles O48: the skips on key Vx down and on key Vx up. -/
theorem keySkips : Obligations.KeySkips := by
  unfold Obligations.KeySkips
  refine ⟨fun _ hf => ⟨fun hk => decode_of_lowByte hf hk rfl, fun hk => decode_of_lowByte hf hk rfl⟩,
    fun x s h => ⟨?down, ?up⟩⟩
  case down =>
    rw [exec, execSkp, skipOnKey_of_lt h]
    simpa only [beq_true] using skip_next s (s.keyStates[(s.getV x).toNat] == true)
  case up =>
    rw [exec, execSknp, skipOnKey_of_lt h]
    simpa only [beq_false, Bool.not_eq_true', ← Bool.not_eq_true, ite_not] using
      skip_next s (s.keyStates[(s.getV x).toNat] == false)

/-- Settles O49: neither skip has a key to ask about. -/
theorem keyNumberAboveFifteenFaults : Obligations.KeyNumberAboveFifteenFaults := by
  unfold Obligations.KeyNumberAboveFifteenFaults
  refine fun x s h => ⟨?skp, ?sknp⟩
  case skp =>
    rw [exec, execSkp, skipOnKey_above h]
    exact raiseFault_taken s _ _
  case sknp =>
    rw [exec, execSknp, skipOnKey_above h]
    exact raiseFault_taken s _ _

/-! ### The timers (R109, R111, R112) -/

/-- Settles O50: Fx07 is the load result of DT. -/
theorem ldVDtReadsTheTimer : Obligations.LdVDtReadsTheTimer := by
  unfold Obligations.LdVDtReadsTheTimer
  exact ⟨fun _ hf hk => decode_of_lowByte hf hk rfl, fun x s => loadResult_next s x s.dt⟩

/-- Settles O52: Fx15 and Fx18 are the updates of DT and of ST to Vx. -/
theorem timerLoads : Obligations.TimerLoads := by
  unfold Obligations.TimerLoads
  exact ⟨fun _ hf => ⟨fun hk => decode_of_lowByte hf hk rfl, fun hk => decode_of_lowByte hf hk rfl⟩,
    fun x _ => ⟨⟨_, rfl, rfl, exec_advances (i := .ldDtV x) rfl⟩, ⟨_, rfl, rfl, exec_advances (i := .ldStV x) rfl⟩⟩⟩

/-! ### Fx0A: the key or the wait (R110) -/

/-- Fx0A with a key recorded is the load result of its number. -/
theorem exec_ldVK_of_key (x : Nibble) {k : Nibble} {s : State} (h : s.lastKey = some k) :
    exec (.ldVK x) s = loadResult s x (byteOfKey k) := by
  simp only [exec, execLdVK, h, loadResult]

/-- Fx0A with no key recorded changes nothing but what the step reports. -/
theorem exec_ldVK_waits (x : Nibble) {s : State} (h : s.lastKey = none) :
    exec (.ldVK x) s = .next (s.report .awaitingInput []) := by
  simp only [exec, execLdVK, h]

/-- Settles O51: the two cases of lastKey. -/
theorem ldVKTakesAKeyOrWaits : Obligations.LdVKTakesAKeyOrWaits := by
  unfold Obligations.LdVKTakesAKeyOrWaits
  refine ⟨fun _ hf hk => decode_of_lowByte hf hk rfl, fun x s => ⟨fun k h => ?_, exec_ldVK_waits x⟩⟩
  obtain ⟨t, ht, hx, hrest⟩ := loadResult_next s x (byteOfKey k)
  exact ⟨t, (exec_ldVK_of_key x h).trans ht, by rw [hx, toNat_byteOfKey], hrest⟩

/-! ### Any number of waiting steps (R110, R132) -/

/-- `Waiting`, with the register the fetched Fx0A names. -/
def WaitsFor (x : Nibble) (s : State) : Prop :=
  s.fault = none ∧ s.pcInWindow = true ∧ s.lastKey = none ∧ decode s.fetchWord = .ok (.ldVK x)

theorem waiting_iff (s : State) : Waiting s ↔ ∃ x, WaitsFor x s := by
  simp only [Waiting, WaitsFor, exists_and_left]

/-- Waiting does not depend on what the last step reported. -/
theorem WaitsFor.of_core_eq {x : Nibble} {s t : State} (h : WaitsFor x s) (hcore : t.core = s.core) :
    WaitsFor x t := by
  change WaitsFor x t.core
  rw [hcore]
  exact h

/-- A step under the state's own configuration is the instruction fetched (R68 to R70). -/
theorem stepUnder_of_decode {s : State} {i : Instr} (hf : s.fault = none) (hw : s.pcInWindow = true)
    (hd : decode s.fetchWord = .ok i) : stepUnder s.quirks s = exec i s :=
  step_of_fetchWord_eq_encode hf hw (encode_of_decode hd).symm

theorem runSchedule_cons {tr : Transaction} {s t : State} (h : transact tr s = .next t) (us : List Transaction) :
    runSchedule (tr :: us) s = runSchedule us t := by
  rw [runSchedule, h]

theorem runSchedule_append {ts : List Transaction} {s t : State} (h : runSchedule ts s = .next t)
    (us : List Transaction) : runSchedule (ts ++ us) s = runSchedule us t := by
  induction ts generalizing s with
  | nil =>
    cases h
    rfl
  | cons tr ts ih =>
    rw [runSchedule] at h
    split at h
    next s' htr => exact (runSchedule_cons htr _).trans (ih h)
    all_goals cases h

/-- Steps that wait leave the core state as it is, since each leaves a state that waits as before. -/
theorem WaitsFor.runSchedule_steps {x : Nibble} {s : State} (h : WaitsFor x s) (n : Nat) :
    ∃ t, runSchedule (List.replicate n (.step s.quirks)) s = .next t ∧ t.core = s.core := by
  induction n generalizing s with
  | zero => exact ⟨s, rfl, rfl⟩
  | succ n ih =>
    obtain ⟨hf, hw, hl, hd⟩ := h
    have hwait : transact (.step s.quirks) s = .next (s.report .awaitingInput []) :=
      (stepUnder_of_decode hf hw hd).trans (exec_ldVK_waits x hl)
    rw [List.replicate_succ, runSchedule_cons hwait]
    exact ih (s := s.report .awaitingInput []) ⟨hf, hw, hl, hd⟩

/-- The step after the key is recorded loads its number. -/
theorem WaitsFor.runSchedule_key {x : Nibble} {s : State} (h : WaitsFor x s) (k : Nibble) :
    ∃ u, runSchedule [.setLastKey k, .step s.quirks] s = .next u ∧
      u.getV x = byteOfKey k ∧ u.pc = s.pc + 2 ∧ u.lastKey = some k := by
  obtain ⟨hf, hw, hl, hd⟩ := h
  have hrecord : transact (.setLastKey k) s = .next (s.setLast (some k)) := by
    simp only [transact, setLastKey, hl]
  have htake : transact (.step s.quirks) (s.setLast (some k)) = loadResult (s.setLast (some k)) x (byteOfKey k) :=
    (stepUnder_of_decode (s := s.setLast (some k)) hf hw hd).trans (exec_ldVK_of_key x rfl)
  rw [runSchedule_cons hrecord, runSchedule_cons htake]
  exact ⟨_, rfl, State.getV_setV_same _ x _, rfl, rfl⟩

/-- Settles O59: the waiting steps leave a state of the same core, which still waits and so takes the key. -/
theorem waitingEndsWithTheKey : Obligations.WaitingEndsWithTheKey := by
  unfold Obligations.WaitingEndsWithTheKey
  intro n s x k hf hw hl hd
  have hwaits : WaitsFor x s := ⟨hf, hw, hl, hd⟩
  obtain ⟨t, ht, hcore⟩ := hwaits.runSchedule_steps n
  refine ⟨⟨t, ht, hcore⟩, ?_⟩
  have hpc : t.pc = s.pc := (congrArg State.pc hcore :)
  have hquirks : t.quirks = s.quirks := (congrArg State.quirks hcore :)
  rw [runSchedule_append ht, ← hpc, ← hquirks]
  exact (hwaits.of_core_eq hcore).runSchedule_key k

end Sys2Proof.Machine
end

section
/-! SUPPORT. The statements on the faults, the host's transactions and the clock, the jump to itself and the reference
display (spec/60_exceptions.md R113 to R126, R135). -/

namespace Sys2Proof.Machine

/-! ### Precise faults (R113) -/

theorem faultTaken_of_raiseFault {s t : State} {c : FaultCause} {n : Nat} (h : raiseFault s c n = .next t) :
    FaultTaken c n s t := (raiseFault_eq_next ..).1 h

/-- Settles O11: a fault is recorded only where it is taken, at the fetch or by the instruction; an unrecognized word and
an instruction that completes leave the record empty. -/
theorem faultsArePrecise : Obligations.FaultsArePrecise := by
  unfold Obligations.FaultsArePrecise
  intro s t h hrec
  have hf := fault_none_of_step h
  obtain ⟨-, hs⟩ | ⟨-, -, hs⟩ | ⟨-, i, -, hs⟩ := step_cases hf
  · exact ⟨_, _, faultTaken_of_raiseFault (hs ▸ h)⟩
  · rw [hs, unrecognized] at h
    cases h
    exact absurd hf hrec
  · obtain ⟨hft, -, -⟩ | ⟨c, n, hr⟩ := (exec_ends i s).next_cases (hs ▸ h)
    · exact absurd (hft.trans hf) hrec
    · exact ⟨c, n, faultTaken_of_raiseFault hr⟩

/-! ### The clock (R117) -/

/-- A countdown of a byte that stops at 0. -/
theorem toNat_countdown (b : Byte) : (if b = 0 then 0 else b - 1).toNat = b.toNat - 1 := by
  split <;> bv_omega

theorem tick_dt (s : State) : (tick s).dt.toNat = s.dt.toNat - 1 := toNat_countdown s.dt

theorem tick_st (s : State) : (tick s).st.toNat = s.st.toNat - 1 := toNat_countdown s.st

/-- A tick writes the two timers only. -/
theorem tick_frame (s : State) : ((tick s).setDt s.dt).setSt s.st = s := rfl

/-- Settles O53, by induction on the number of ticks: each takes 1 off a timer that is not 0, and a state that has the
timers of the next one written back differs from it in nothing. -/
theorem ticksCountDown : Obligations.TicksCountDown := by
  unfold Obligations.TicksCountDown
  intro n
  induction n with
  | zero => exact fun s => ⟨s, rfl, rfl, rfl, rfl⟩
  | succ n ih =>
    intro s
    obtain ⟨t, ht, hdt, hst, hframe⟩ := ih (tick s)
    refine ⟨t, ht, ?_, ?_, ?_⟩
    · rw [hdt, tick_dt, Nat.sub_sub, Nat.add_comm]
    · rw [hst, tick_st, Nat.sub_sub, Nat.add_comm]
    · exact congrArg (fun u => (u.setDt s.dt).setSt s.st) hframe

/-! ### The keys (R125, R126) -/

theorem State.keyDown_setKeyState (s : State) (k j : Nibble) (down : Bool) :
    (s.setKeyState k down).keyDown j = if j = k then down else s.keyDown j := by
  simp only [State.keyDown, State.setKeyState, Vector.getElem_set, BitVec.toNat_inj, eq_comm (a := k)]

/-- With no key recorded setLastKey records one (R126). -/
theorem setLastKey_of_none (k : Nibble) {s : State} (h : s.lastKey = none) :
    setLastKey k s = .next (s.setLast (some k)) := by
  simp only [setLastKey, h]

/-- With a key recorded setLastKey is refused (log entry 14). -/
theorem setLastKey_of_held (k : Nibble) {s : State} {held : Nibble} (h : s.lastKey = some held) :
    setLastKey k s = .refused (.lastKeyHeld held) := by
  simp only [setLastKey, h]

/-- Settles O54: the write of one entry of the key states, and the two cases of lastKey. -/
theorem keyTransactions : Obligations.KeyTransactions := by
  unfold Obligations.KeyTransactions
  refine fun k s => ⟨fun down => ⟨s.setKeyState k down, rfl, ?same, ?other, rfl⟩, setLastKey_of_none k,
    fun _ => setLastKey_of_held k, rfl⟩
  case same => rw [State.keyDown_setKeyState, if_pos rfl]
  case other =>
    intro j hj
    rw [State.keyDown_setKeyState, if_neg hj]

/-! ### The jump to itself (R135) -/

/-- Being at a jump to itself does not depend on what the last step reported. -/
theorem SelfLoop.report {s : State} (h : SelfLoop s) (o : StepOutcome) (reqs : List Request) :
    SelfLoop (s.report o reqs) := h

/-- A step of a jump to itself changes nothing but what it reports (R78). -/
theorem SelfLoop.stepUnder {s : State} (h : SelfLoop s) :
    stepUnder s.quirks s = .next (s.report .advanced []) := by
  obtain ⟨hf, hw, nnn, hd, hpc⟩ := h
  rw [stepUnder_of_decode hf hw hd, exec, execJp, hpc]
  rfl

/-- Settles O58, by induction on the number of steps: each leaves a state of the same core, which is at the jump as
before. -/
theorem selfLoopChangesNothing : Obligations.SelfLoopChangesNothing := by
  unfold Obligations.SelfLoopChangesNothing
  intro n
  induction n with
  | zero => exact fun s h => ⟨s, rfl, rfl, h⟩
  | succ n ih =>
    intro s h
    rw [List.replicate_succ, runSchedule_cons (tr := .step s.quirks) h.stepUnder]
    exact ih (s.report .advanced []) (h.report _ _)

/-! ### The pixels a draw leaves and its answer (R120, R122) -/

/-- A pixel is flipped as often as it is hit. -/
theorem Display.mem_foldl_hit (l : List (Nat × Nat)) (dc : Display × Bool) (p : Nat × Nat) :
    p ∈ (l.foldl Display.hit dc).1.lit ↔ if l.count p % 2 = 0 then p ∈ dc.1.lit else p ∉ dc.1.lit := by
  induction l generalizing dc with
  | nil => rfl
  | cons q l ih =>
    rw [List.foldl_cons, ih, Display.hit, Display.mem_toggle]
    by_cases hpq : p = q
    · subst hpq
      have hparity : (l.count p + 1) % 2 = 0 ↔ ¬ l.count p % 2 = 0 := by omega
      rw [List.count_cons_self]
      by_cases heven : l.count p % 2 = 0 <;> simp [hparity, heven]
    · rw [List.count_cons_of_ne (Ne.symm hpq), if_neg hpq]

/-- Toggling an unset pixel sets it and keeps the others. -/
theorem Display.not_mem_toggle {d : Display} {q : Nat × Nat} (hq : q ∉ d.lit) (p : Nat × Nat) :
    p ∉ (d.toggle q).1.lit ↔ ¬ q = p ∧ p ∉ d.lit := by
  by_cases hqp : q = p
  · subst hqp
    simp [Display.mem_toggle, hq]
  · simp [Display.mem_toggle, hqp, eq_comm (a := p)]

/-- The answer stays 0 exactly when no pixel was set and none is hit twice: the second hit would find it set. -/
theorem Display.foldl_hit_answer (l : List (Nat × Nat)) (dc : Display × Bool) :
    (l.foldl Display.hit dc).2 = false ↔ dc.2 = false ∧ l.Nodup ∧ ∀ p ∈ l, p ∉ dc.1.lit := by
  induction l generalizing dc with
  | nil => simp
  | cons q l ih =>
    have hans : (dc.1.toggle q).2 = false ↔ q ∉ dc.1.lit := by
      rw [← Display.toggle_answer, Bool.not_eq_true]
    have hleft (hq : q ∉ dc.1.lit) : (∀ p ∈ l, p ∉ (dc.1.toggle q).1.lit) ↔ q ∉ l ∧ ∀ p ∈ l, p ∉ dc.1.lit := by
      simp only [Display.not_mem_toggle hq, forall_and, List.forall_mem_ne]
    simp only [List.foldl_cons, ih, Display.hit, Bool.or_eq_false_iff, hans, List.nodup_cons, List.forall_mem_cons]
    by_cases hq : q ∈ dc.1.lit
    · simp [hq]
    · simp only [hq, hleft hq, not_false_eq_true, and_true, true_and]
      tauto

/-! ### A sprite that covers no pixel twice -/

/-- The sprite of `n` rows is clipped, or wraps on a grid no smaller than itself. -/
def Display.NoFold (d : Display) (wrap : Bool) (n : Nat) : Prop := wrap = false ∨ 8 ≤ d.width ∧ n ≤ d.height

/-- The coordinates of a sprite's bit that is not clipped. -/
theorem Display.pixelAt_eq_some {d : Display} {xc yc : Byte} {wrap : Bool} {r b : Nat} {p : Nat × Nat}
    (h : d.pixelAt xc yc wrap r b = some p) :
    p = if wrap then ((xc.toNat % d.width + b) % d.width, (yc.toNat % d.height + r) % d.height)
      else (xc.toNat % d.width + b, yc.toNat % d.height + r) := by
  simp only [Display.pixelAt, Option.ite_none_right_eq_some, Option.some.injEq] at h
  exact h.2.symm

/-- Two offsets smaller than the modulus that wrap to one place are equal. -/
theorem eq_of_wrap_eq {x a b m k : Nat} (h : (x + a) % m = (x + b) % m) (ha : a < k) (hb : b < k) (hk : k ≤ m) :
    a = b :=
  (Nat.ModEq.add_left_cancel' x h).eq_of_lt_of_lt (ha.trans_le hk) (hb.trans_le hk)

/-- Without folding, two bits of a sprite fall on different pixels. -/
theorem Display.pixelAt_inj {d : Display} {xc yc : Byte} {wrap : Bool} {n r b r' b' : Nat} {p : Nat × Nat}
    (hfold : d.NoFold wrap n) (hr : r < n) (hr' : r' < n) (hb : b < 8) (hb' : b' < 8)
    (h : d.pixelAt xc yc wrap r b = some p) (h' : d.pixelAt xc yc wrap r' b' = some p) : r = r' ∧ b = b' := by
  have heq := (Display.pixelAt_eq_some h).symm.trans (Display.pixelAt_eq_some h')
  cases wrap with
  | false =>
    simp only [Bool.false_eq_true, if_false, Prod.mk.injEq] at heq
    omega
  | true =>
    obtain hw | ⟨hw, hh⟩ := hfold
    · cases hw
    · simp only [if_true, Prod.mk.injEq] at heq
      exact ⟨eq_of_wrap_eq heq.2 hr hr' hh, eq_of_wrap_eq heq.1 hb hb' hw⟩

theorem Display.mem_rowPixels {d : Display} {xc yc : Byte} {wrap : Bool} {r : Nat} {row : Byte} {p : Nat × Nat}
    (h : p ∈ d.rowPixels xc yc wrap r row) : ∃ b < 8, d.pixelAt xc yc wrap r b = some p := by
  obtain ⟨b, hb, hp⟩ := List.mem_filterMap.1 h
  exact ⟨b, List.mem_range.1 hb, (Option.ite_none_right_eq_some.1 hp).2⟩

theorem Display.nodup_rowPixels {d : Display} {wrap : Bool} {n r : Nat} (hfold : d.NoFold wrap n) (hr : r < n)
    (xc yc : Byte) (row : Byte) : (d.rowPixels xc yc wrap r row).Nodup := by
  refine List.pairwise_filterMap.2 (List.nodup_range.imp_of_mem ?_)
  rintro b b' hb hb' hne p hp _ hp' rfl
  obtain ⟨-, hpix⟩ := Option.ite_none_right_eq_some.1 hp
  obtain ⟨-, hpix'⟩ := Option.ite_none_right_eq_some.1 hp'
  exact hne (Display.pixelAt_inj hfold hr hr (List.mem_range.1 hb) (List.mem_range.1 hb') hpix hpix').2

theorem Display.nodup_spritePixels {d : Display} {wrap : Bool} {bytes : List Byte} (hfold : d.NoFold wrap bytes.length)
    (xc yc : Byte) : (d.spritePixels bytes xc yc wrap).Nodup := by
  refine List.nodup_flatMap.2 ⟨fun a ha => Display.nodup_rowPixels hfold (List.snd_lt_of_mem_zipIdx ha) xc yc a.1, ?_⟩
  have hrows : bytes.zipIdx.Pairwise fun a a' => a.2 ≠ a'.2 := by
    rw [← List.pairwise_map (R := (· ≠ ·)), List.zipIdx_map_snd]
    exact List.nodup_range'
  refine hrows.imp_of_mem fun ha ha' hne p hp hp' => ?_
  obtain ⟨b, hb, hpix⟩ := Display.mem_rowPixels hp
  obtain ⟨b', hb', hpix'⟩ := Display.mem_rowPixels hp'
  exact hne (Display.pixelAt_inj hfold (List.snd_lt_of_mem_zipIdx ha) (List.snd_lt_of_mem_zipIdx ha') hb hb' hpix hpix').1

/-! ### The contract -/

/-- The answer 1: a pixel hit was set, or is hit twice. -/
theorem Display.foldl_hit_collides (l : List (Nat × Nat)) (d : Display) :
    (l.foldl Display.hit (d, false)).2 = true ↔ ∃ p ∈ l, p ∈ d.lit ∨ 2 ≤ l.count p := by
  have htwice : ¬ l.Nodup ↔ ∃ p ∈ l, 2 ≤ l.count p := by
    rw [List.nodup_iff_count_le_one, not_forall]
    refine exists_congr fun p => ⟨fun h => ⟨List.count_pos_iff.1 (by omega), by omega⟩, fun ⟨_, h⟩ => by omega⟩
  rw [← Bool.not_eq_false, Display.foldl_hit_answer]
  grind

/-- Hits of different pixels set the XOR of the old pixels and the hit ones. -/
theorem Display.mem_foldl_hit_of_nodup {l : List (Nat × Nat)} (hl : l.Nodup) (dc : Display × Bool) (p : Nat × Nat) :
    p ∈ (l.foldl Display.hit dc).1.lit ↔ ¬ (p ∈ dc.1.lit ↔ p ∈ l) := by
  rw [Display.mem_foldl_hit]
  by_cases hp : p ∈ l
  · simp [hp, List.count_eq_one_of_mem hl hp]
  · simp [hp, List.count_eq_zero_of_not_mem hp]

/-- Hits of different pixels answer 1 exactly when one of them unsets a pixel. -/
theorem Display.foldl_hit_collides_of_nodup {l : List (Nat × Nat)} (hl : l.Nodup) (d : Display) :
    (l.foldl Display.hit (d, false)).2 = true ↔ ∃ p ∈ d.lit, p ∉ (l.foldl Display.hit (d, false)).1.lit := by
  rw [← Bool.not_eq_false, Display.foldl_hit_answer]
  simp only [Display.mem_foldl_hit_of_nodup hl]
  grind

/-- Settles O60: a draw is the hits of the sprite's pixels in their order, and none is hit twice where the sprite does
not fold onto itself. -/
theorem referenceDisplayMeetsTheContract : Obligations.ReferenceDisplayMeetsTheContract := by
  unfold Obligations.ReferenceDisplayMeetsTheContract
  rintro d d' bytes x y wrap c cover rfl hdraw
  rw [Display.draw_eq] at hdraw
  obtain ⟨rfl, rfl⟩ := Prod.ext_iff.1 hdraw
  obtain ⟨hwidth, hheight⟩ := Display.foldl_hit_size (d.spritePixels bytes x y wrap) (d, false)
  refine ⟨hwidth, hheight, Display.mem_foldl_hit _ _, Display.foldl_hit_collides _ d, fun hfold => ?_⟩
  have hl : (d.spritePixels bytes x y wrap).Nodup := Display.nodup_spritePixels hfold x y
  exact ⟨Display.mem_foldl_hit_of_nodup hl _, Display.foldl_hit_collides_of_nodup hl d⟩

end Sys2Proof.Machine
end

section
/-! SUPPORT. The statements on the host's two transactions that load memory (spec/70_reset_and_hazards.md R138, R139). -/

namespace Sys2Proof.Machine

/-! ### Loading a program (R139) -/

theorem romFits_iff (bytes : List Byte) : romFits bytes = true ↔ 0x200 + bytes.length ≤ memSize := by
  simp [romFits, memSize]

theorem loadRom_of_fits {bytes : List Byte} (h : 0x200 + bytes.length ≤ memSize) (s : State) :
    loadRom bytes s = .next (s.setMem (Memory.writeBytes s.mem 0x200 bytes)) :=
  if_pos ((romFits_iff bytes).2 h)

theorem loadRom_of_tooLong {bytes : List Byte} (h : memSize < 0x200 + bytes.length) (s : State) :
    loadRom bytes s = .refused (.romTooLong bytes.length) :=
  if_neg (mt (romFits_iff bytes).1 (Nat.not_le.2 h))

/-- Byte `k` of a run of writes is read at its own address. -/
theorem Memory.read_writeBytes_inside (m : Memory) {a k : Nat} {bs : List Byte} (h : a + bs.length ≤ memSize)
    (hk : k < bs.length) : Memory.read (Memory.writeBytes m a bs) (a + k) = bs[k] := by
  rw [Memory.read_writeBytes _ _ _ _ h]
  simp [hk]

/-- Settles O55: the bytes fit exactly when they end by the last address, and then they are one run of writes. -/
theorem loadRomCopiesTheProgram : Obligations.LoadRomCopiesTheProgram := by
  unfold Obligations.LoadRomCopiesTheProgram
  intro bytes s
  constructor
  · intro hlen
    have hroom : 0x200 + bytes.length ≤ memSize := by unfold memSize; omega
    exact ⟨_, loadRom_of_fits hroom s, fun k hk => Memory.read_writeBytes_inside s.mem hroom hk,
      fun a ha => Memory.read_writeBytes_outside s.mem hroom ha, rfl⟩
  · intro hlen
    have hover : memSize < 0x200 + bytes.length := by unfold memSize; omega
    exact loadRom_of_tooLong hover s

/-! ### Loading the font (R138) -/

/-- The memory `loadTypography` leaves: the font below 80, the old bytes above it. -/
theorem readByte_loadTypography (font : Font) (s : State) (a : Nat) :
    (loadTypography font s).readByte a = if h : a < 80 then font[a] else s.readByte a := by
  have hroom : 0 + font.toList.length ≤ memSize := by simp [memSize]
  rw [loadTypography, State.readByte_setMem, Memory.read_writeBytes _ _ _ _ hroom]
  by_cases ha : a < 80 <;> simp [ha, State.readByte]

/-- Settles O56: the font is one run of writes from address 0, and only memory is replaced. -/
theorem loadTypographyWritesTheFont : Obligations.LoadTypographyWritesTheFont := by
  unfold Obligations.LoadTypographyWritesTheFont
  intro font s
  exact ⟨loadTypography font s, rfl, readByte_loadTypography font s, rfl⟩

end Sys2Proof.Machine
end
